-- ==== Sys2Proof/Word.lean ====
section
/-! DEFINITION. The word types of the machine (spec/00_scope.md R8, R9). Bit 0 is the least significant bit of
every operand. -/

namespace Sys2Proof

/-- A byte: 8 bits (R9). -/
abbrev Byte := BitVec 8

/-- A word: 16 bits (R9). -/
abbrev HalfWord := BitVec 16

/-- A doubleword: 32 bits (R9); also a linear address and an offset (20_memory.md R55). -/
abbrev Dword := BitVec 32

end Sys2Proof
end

