-- ==== Sys2Proof/Syntax.lean ====
section
/-! DEFINITION. The instruction terms: one constructor of Instr per row of spec/opcode_table.json, with typed
operands (spec/00_scope.md R6, 30_encoding.md R92). A term also carries which marks stand before its opcode and which
addressing form its memory operand is written in, so that its length (10_state.md R25) and its bytes are determined. -/

namespace Sys2Proof

/-- The operand-size attribute `v` (30_encoding.md R83): a word or a doubleword; also the address-size attribute. -/
inductive OpSize where
  | w16
  | w32
deriving DecidableEq, Repr

/-- The number of bits an attribute stands for (R83). -/
@[reducible] def OpSize.bits : OpSize → Nat
  | .w16 => 16
  | .w32 => 32

/-- The other one of 16 and 32 (30_encoding.md R82). -/
def OpSize.other : OpSize → OpSize
  | .w16 => .w32
  | .w32 => .w16

/-- The default operand size and address size, OPSIZE_DEFAULT and ADDRSIZE_DEFAULT (00_scope.md R7). -/
structure Sizes where
  opsize : OpSize
  addrsize : OpSize
deriving DecidableEq, Repr

/-- General register numbers 0 to 7 at width 16 or 32 (10_state.md R21). -/
inductive Reg where
  | eax | ecx | edx | ebx | esp | ebp | esi | edi
deriving DecidableEq, Repr

/-- General register numbers 0 to 7 at width 8 (10_state.md R21). -/
inductive Reg8 where
  | al | cl | dl | bl | ah | ch | dh | bh
deriving DecidableEq, Repr

/-- The six segment registers (20_memory.md R55, 30_encoding.md R82). -/
inductive Seg where
  | es | cs | ss | ds | fs | gs
deriving DecidableEq, Repr

/-- The marks that may stand before an opcode, at most one of each kind (30_encoding.md R82): the operand-size
byte 66, the address-size byte 67, a segment override, the LOCK byte F0. -/
structure Marks where
  opsize : Bool
  addrsize : Bool
  seg : Option Seg
  lock : Bool
deriving DecidableEq, Repr

/-- No mark at all. -/
def Marks.empty : Marks := ⟨false, false, Option.none, false⟩

/-- The scale of an index register (20_memory.md R55, 30_encoding.md R89). -/
inductive Scale where
  | x1 | x2 | x4 | x8
deriving DecidableEq, Repr

/-- The displacement of a memory operand: none, a sign-extended byte, or the full width of the address size
(20_memory.md R55; `mod` = 00, 01, 10 of 30_encoding.md R88, R90). -/
inductive Disp (n : Nat) where
  | none
  | d8 (d : Byte)
  | full (d : BitVec n)
deriving DecidableEq, Repr

/-- The base registers of 16-bit addressing (20_memory.md R55). -/
inductive Base16 where
  | bx | bp
deriving DecidableEq, Repr

/-- The index registers of 16-bit addressing (20_memory.md R55). -/
inductive Index16 where
  | si | di
deriving DecidableEq, Repr

/-- A memory operand (20_memory.md R55): base, index, scale and displacement in 32-bit addressing, `sib` saying
whether an SIB byte spells it (30_encoding.md R88, R89); base, index and displacement in 16-bit addressing (R90). -/
inductive MemOp where
  | a32 (sib : Bool) (base : Option Reg) (index : Option (Reg × Scale)) (disp : Disp 32)
  | a16 (base : Option Base16) (index : Option Index16) (disp : Disp 16)
deriving DecidableEq, Repr

/-- The R/M operand (30_encoding.md R85): a register or a memory operand. -/
inductive RM (ρ : Type) where
  | reg (r : ρ)
  | mem (m : MemOp)
deriving DecidableEq, Repr

/-- An R/M operand of a byte form. -/
abbrev Rm8 := RM Reg8

/-- An R/M operand of a word or doubleword form. -/
abbrev Rmv := RM Reg

/-- An immediate, or a relative displacement, of the operand size `v`: `iv` and `cv` of 30_encoding.md R91. -/
inductive ImmV where
  | i16 (x : BitVec 16)
  | i32 (x : BitVec 32)
deriving DecidableEq, Repr

/-- The operand size of an `ImmV`. -/
@[reducible] def ImmV.size : ImmV → OpSize
  | .i16 _ => .w16
  | .i32 _ => .w32

/-- The bits of an `ImmV`. -/
def ImmV.value : (x : ImmV) → BitVec x.size.bits
  | .i16 x => x
  | .i32 x => x

/-- The instructions: one constructor per row of spec/opcode_table.json, in the table's order. -/
inductive Instr where
  /-- OR r/m8, r8: 08 /r (R122). -/
  | orRm8R8 (p : Marks) (dst : Rm8) (src : Reg8)
  /-- OR r/m v, r v: 09 /r (R122). -/
  | orRmvRv (p : Marks) (v : OpSize) (dst : Rmv) (src : Reg)
  /-- OR r8, r/m8: 0A /r (R122). -/
  | orR8Rm8 (p : Marks) (dst : Reg8) (src : Rm8)
  /-- OR r v, r/m v: 0B /r (R122). -/
  | orRvRmv (p : Marks) (v : OpSize) (dst : Reg) (src : Rmv)
  /-- OR AL, imm8: 0C ib (R122). -/
  | orAlImm8 (p : Marks) (imm : Byte)
  /-- OR eAX, imm v: 0D iv (R122). -/
  | orEaxImmv (p : Marks) (imm : ImmV)
  /-- OR r/m8, imm8: 80 /1 ib (R122). -/
  | orRm8Imm8 (p : Marks) (dst : Rm8) (imm : Byte)
  /-- OR r/m v, imm v: 81 /1 iv (R122). -/
  | orRmvImmv (p : Marks) (dst : Rmv) (imm : ImmV)
  /-- OR r/m v, imm8 sign-extended: 83 /1 ib (R122). -/
  | orRmvImm8sx (p : Marks) (v : OpSize) (dst : Rmv) (imm : Byte)
  /-- AND r/m8, r8: 20 /r (R121). -/
  | andRm8R8 (p : Marks) (dst : Rm8) (src : Reg8)
  /-- AND r/m v, r v: 21 /r (R121). -/
  | andRmvRv (p : Marks) (v : OpSize) (dst : Rmv) (src : Reg)
  /-- AND r8, r/m8: 22 /r (R121). -/
  | andR8Rm8 (p : Marks) (dst : Reg8) (src : Rm8)
  /-- AND r v, r/m v: 23 /r (R121). -/
  | andRvRmv (p : Marks) (v : OpSize) (dst : Reg) (src : Rmv)
  /-- AND AL, imm8: 24 ib (R121). -/
  | andAlImm8 (p : Marks) (imm : Byte)
  /-- AND eAX, imm v: 25 iv (R121). -/
  | andEaxImmv (p : Marks) (imm : ImmV)
  /-- AND r/m8, imm8: 80 /4 ib (R121). -/
  | andRm8Imm8 (p : Marks) (dst : Rm8) (imm : Byte)
  /-- AND r/m v, imm v: 81 /4 iv (R121). -/
  | andRmvImmv (p : Marks) (dst : Rmv) (imm : ImmV)
  /-- AND r/m v, imm8 sign-extended: 83 /4 ib (R121). -/
  | andRmvImm8sx (p : Marks) (v : OpSize) (dst : Rmv) (imm : Byte)
  /-- XOR r/m8, r8: 30 /r (R123). -/
  | xorRm8R8 (p : Marks) (dst : Rm8) (src : Reg8)
  /-- XOR r/m v, r v: 31 /r (R123). -/
  | xorRmvRv (p : Marks) (v : OpSize) (dst : Rmv) (src : Reg)
  /-- XOR r8, r/m8: 32 /r (R123). -/
  | xorR8Rm8 (p : Marks) (dst : Reg8) (src : Rm8)
  /-- XOR r v, r/m v: 33 /r (R123). -/
  | xorRvRmv (p : Marks) (v : OpSize) (dst : Reg) (src : Rmv)
  /-- XOR AL, imm8: 34 ib (R123). -/
  | xorAlImm8 (p : Marks) (imm : Byte)
  /-- XOR eAX, imm v: 35 iv (R123). -/
  | xorEaxImmv (p : Marks) (imm : ImmV)
  /-- XOR r/m8, imm8: 80 /6 ib (R123). -/
  | xorRm8Imm8 (p : Marks) (dst : Rm8) (imm : Byte)
  /-- XOR r/m v, imm v: 81 /6 iv (R123). -/
  | xorRmvImmv (p : Marks) (dst : Rmv) (imm : ImmV)
  /-- XOR r/m v, imm8 sign-extended: 83 /6 ib (R123). -/
  | xorRmvImm8sx (p : Marks) (v : OpSize) (dst : Rmv) (imm : Byte)
  /-- NOT r/m8: F6 /2 (R120). -/
  | notRm8 (p : Marks) (dst : Rm8)
  /-- NOT r/m v: F7 /2 (R120). -/
  | notRmv (p : Marks) (v : OpSize) (dst : Rmv)
  /-- BT r/m v, r v: 0F A3 /r (R144). -/
  | btRmvRv (p : Marks) (v : OpSize) (base : Rmv) (off : Reg)
  /-- BT r/m v, imm8: 0F BA /4 ib (R144). -/
  | btRmvImm8 (p : Marks) (v : OpSize) (base : Rmv) (off : Byte)
  /-- BTS r/m v, r v: 0F AB /r (R145). -/
  | btsRmvRv (p : Marks) (v : OpSize) (base : Rmv) (off : Reg)
  /-- BTS r/m v, imm8: 0F BA /5 ib (R145). -/
  | btsRmvImm8 (p : Marks) (v : OpSize) (base : Rmv) (off : Byte)
  /-- BTR r/m v, r v: 0F B3 /r (R146). -/
  | btrRmvRv (p : Marks) (v : OpSize) (base : Rmv) (off : Reg)
  /-- BTR r/m v, imm8: 0F BA /6 ib (R146). -/
  | btrRmvImm8 (p : Marks) (v : OpSize) (base : Rmv) (off : Byte)
  /-- BTC r/m v, r v: 0F BB /r (R147). -/
  | btcRmvRv (p : Marks) (v : OpSize) (base : Rmv) (off : Reg)
  /-- BTC r/m v, imm8: 0F BA /7 ib (R147). -/
  | btcRmvImm8 (p : Marks) (v : OpSize) (base : Rmv) (off : Byte)
  /-- BSF r v, r/m v: 0F BC /r (R161). -/
  | bsfRvRmv (p : Marks) (v : OpSize) (dst : Reg) (src : Rmv)
  /-- BSR r v, r/m v: 0F BD /r (R162). -/
  | bsrRvRmv (p : Marks) (v : OpSize) (dst : Reg) (src : Rmv)
  /-- ROL r/m8, 1: D0 /0 (R202). -/
  | rolRm8One (p : Marks) (dst : Rm8)
  /-- ROL r/m v, 1: D1 /0 (R202). -/
  | rolRmvOne (p : Marks) (v : OpSize) (dst : Rmv)
  /-- ROL r/m8, CL: D2 /0 (R202). -/
  | rolRm8Cl (p : Marks) (dst : Rm8)
  /-- ROL r/m v, CL: D3 /0 (R202). -/
  | rolRmvCl (p : Marks) (v : OpSize) (dst : Rmv)
  /-- ROL r/m8, imm8: C0 /0 ib (R202). -/
  | rolRm8Imm8 (p : Marks) (dst : Rm8) (count : Byte)
  /-- ROL r/m v, imm8: C1 /0 ib (R202). -/
  | rolRmvImm8 (p : Marks) (v : OpSize) (dst : Rmv) (count : Byte)
  /-- ROR r/m8, 1: D0 /1 (R203). -/
  | rorRm8One (p : Marks) (dst : Rm8)
  /-- ROR r/m v, 1: D1 /1 (R203). -/
  | rorRmvOne (p : Marks) (v : OpSize) (dst : Rmv)
  /-- ROR r/m8, CL: D2 /1 (R203). -/
  | rorRm8Cl (p : Marks) (dst : Rm8)
  /-- ROR r/m v, CL: D3 /1 (R203). -/
  | rorRmvCl (p : Marks) (v : OpSize) (dst : Rmv)
  /-- ROR r/m8, imm8: C0 /1 ib (R203). -/
  | rorRm8Imm8 (p : Marks) (dst : Rm8) (count : Byte)
  /-- ROR r/m v, imm8: C1 /1 ib (R203). -/
  | rorRmvImm8 (p : Marks) (v : OpSize) (dst : Rmv) (count : Byte)
  /-- RCL r/m8, 1: D0 /2 (R204). -/
  | rclRm8One (p : Marks) (dst : Rm8)
  /-- RCL r/m v, 1: D1 /2 (R204). -/
  | rclRmvOne (p : Marks) (v : OpSize) (dst : Rmv)
  /-- RCL r/m8, CL: D2 /2 (R204). -/
  | rclRm8Cl (p : Marks) (dst : Rm8)
  /-- RCL r/m v, CL: D3 /2 (R204). -/
  | rclRmvCl (p : Marks) (v : OpSize) (dst : Rmv)
  /-- RCL r/m8, imm8: C0 /2 ib (R204). -/
  | rclRm8Imm8 (p : Marks) (dst : Rm8) (count : Byte)
  /-- RCL r/m v, imm8: C1 /2 ib (R204). -/
  | rclRmvImm8 (p : Marks) (v : OpSize) (dst : Rmv) (count : Byte)
  /-- RCR r/m8, 1: D0 /3 (R205). -/
  | rcrRm8One (p : Marks) (dst : Rm8)
  /-- RCR r/m v, 1: D1 /3 (R205). -/
  | rcrRmvOne (p : Marks) (v : OpSize) (dst : Rmv)
  /-- RCR r/m8, CL: D2 /3 (R205). -/
  | rcrRm8Cl (p : Marks) (dst : Rm8)
  /-- RCR r/m v, CL: D3 /3 (R205). -/
  | rcrRmvCl (p : Marks) (v : OpSize) (dst : Rmv)
  /-- RCR r/m8, imm8: C0 /3 ib (R205). -/
  | rcrRm8Imm8 (p : Marks) (dst : Rm8) (count : Byte)
  /-- RCR r/m v, imm8: C1 /3 ib (R205). -/
  | rcrRmvImm8 (p : Marks) (v : OpSize) (dst : Rmv) (count : Byte)
  /-- SHL r/m8, 1: D0 /4 (R173). -/
  | shlRm8One (p : Marks) (dst : Rm8)
  /-- SHL r/m v, 1: D1 /4 (R173). -/
  | shlRmvOne (p : Marks) (v : OpSize) (dst : Rmv)
  /-- SHL r/m8, CL: D2 /4 (R173). -/
  | shlRm8Cl (p : Marks) (dst : Rm8)
  /-- SHL r/m v, CL: D3 /4 (R173). -/
  | shlRmvCl (p : Marks) (v : OpSize) (dst : Rmv)
  /-- SHL r/m8, imm8: C0 /4 ib (R173). -/
  | shlRm8Imm8 (p : Marks) (dst : Rm8) (count : Byte)
  /-- SHL r/m v, imm8: C1 /4 ib (R173). -/
  | shlRmvImm8 (p : Marks) (v : OpSize) (dst : Rmv) (count : Byte)
  /-- SHR r/m8, 1: D0 /5 (R174). -/
  | shrRm8One (p : Marks) (dst : Rm8)
  /-- SHR r/m v, 1: D1 /5 (R174). -/
  | shrRmvOne (p : Marks) (v : OpSize) (dst : Rmv)
  /-- SHR r/m8, CL: D2 /5 (R174). -/
  | shrRm8Cl (p : Marks) (dst : Rm8)
  /-- SHR r/m v, CL: D3 /5 (R174). -/
  | shrRmvCl (p : Marks) (v : OpSize) (dst : Rmv)
  /-- SHR r/m8, imm8: C0 /5 ib (R174). -/
  | shrRm8Imm8 (p : Marks) (dst : Rm8) (count : Byte)
  /-- SHR r/m v, imm8: C1 /5 ib (R174). -/
  | shrRmvImm8 (p : Marks) (v : OpSize) (dst : Rmv) (count : Byte)
  /-- SAR r/m8, 1: D0 /7 (R175). -/
  | sarRm8One (p : Marks) (dst : Rm8)
  /-- SAR r/m v, 1: D1 /7 (R175). -/
  | sarRmvOne (p : Marks) (v : OpSize) (dst : Rmv)
  /-- SAR r/m8, CL: D2 /7 (R175). -/
  | sarRm8Cl (p : Marks) (dst : Rm8)
  /-- SAR r/m v, CL: D3 /7 (R175). -/
  | sarRmvCl (p : Marks) (v : OpSize) (dst : Rmv)
  /-- SAR r/m8, imm8: C0 /7 ib (R175). -/
  | sarRm8Imm8 (p : Marks) (dst : Rm8) (count : Byte)
  /-- SAR r/m v, imm8: C1 /7 ib (R175). -/
  | sarRmvImm8 (p : Marks) (v : OpSize) (dst : Rmv) (count : Byte)
  /-- SHLD r/m v, r v, imm8: 0F A4 /r ib (R192). -/
  | shldRmvRvImm8 (p : Marks) (v : OpSize) (dst : Rmv) (src : Reg) (count : Byte)
  /-- SHLD r/m v, r v, CL: 0F A5 /r (R192). -/
  | shldRmvRvCl (p : Marks) (v : OpSize) (dst : Rmv) (src : Reg)
  /-- SHRD r/m v, r v, imm8: 0F AC /r ib (R193). -/
  | shrdRmvRvImm8 (p : Marks) (v : OpSize) (dst : Rmv) (src : Reg) (count : Byte)
  /-- SHRD r/m v, r v, CL: 0F AD /r (R193). -/
  | shrdRmvRvCl (p : Marks) (v : OpSize) (dst : Rmv) (src : Reg)
  /-- SETO r/m8: 0F 90 /0 (R221). -/
  | seto (p : Marks) (dst : Rm8)
  /-- SETNO r/m8: 0F 91 /0 (R221). -/
  | setno (p : Marks) (dst : Rm8)
  /-- SETC r/m8: 0F 92 /0 (R221). -/
  | setc (p : Marks) (dst : Rm8)
  /-- SETNC r/m8: 0F 93 /0 (R221). -/
  | setnc (p : Marks) (dst : Rm8)
  /-- SETE r/m8: 0F 94 /0 (R221). -/
  | sete (p : Marks) (dst : Rm8)
  /-- SETNE r/m8: 0F 95 /0 (R221). -/
  | setne (p : Marks) (dst : Rm8)
  /-- SETBE r/m8: 0F 96 /0 (R221). -/
  | setbe (p : Marks) (dst : Rm8)
  /-- SETNBE r/m8: 0F 97 /0 (R221). -/
  | setnbe (p : Marks) (dst : Rm8)
  /-- SETS r/m8: 0F 98 /0 (R221). -/
  | sets (p : Marks) (dst : Rm8)
  /-- SETNS r/m8: 0F 99 /0 (R221). -/
  | setns (p : Marks) (dst : Rm8)
  /-- SETP r/m8: 0F 9A /0 (R221). -/
  | setp (p : Marks) (dst : Rm8)
  /-- SETNP r/m8: 0F 9B /0 (R221). -/
  | setnp (p : Marks) (dst : Rm8)
  /-- SETL r/m8: 0F 9C /0 (R221). -/
  | setl (p : Marks) (dst : Rm8)
  /-- SETNL r/m8: 0F 9D /0 (R221). -/
  | setnl (p : Marks) (dst : Rm8)
  /-- SETLE r/m8: 0F 9E /0 (R221). -/
  | setle (p : Marks) (dst : Rm8)
  /-- SETNLE r/m8: 0F 9F /0 (R221). -/
  | setnle (p : Marks) (dst : Rm8)
  /-- JC rel8: 72 cb (R234). -/
  | jcRel8 (p : Marks) (v : OpSize) (rel : Byte)
  /-- JC rel v: 0F 82 cv (R234). -/
  | jcRelv (p : Marks) (rel : ImmV)
  /-- JNC rel8: 73 cb (R235). -/
  | jncRel8 (p : Marks) (v : OpSize) (rel : Byte)
  /-- JNC rel v: 0F 83 cv (R235). -/
  | jncRelv (p : Marks) (rel : ImmV)
  /-- IDIV r/m8: F6 /7 (R231). -/
  | idivRm8 (p : Marks) (src : Rm8)
  /-- IDIV r/m v: F7 /7 (R231). -/
  | idivRmv (p : Marks) (v : OpSize) (src : Rmv)
deriving DecidableEq, Repr

end Sys2Proof
end

