-- ==== Sys2Proof/Config.lean ====
section
/-! DEFINITION. What an implementation or a launch fixes (spec/00_scope.md R7), as plain data, and the free values
that stand for every `undef` of the spec (R12). -/

namespace Sys2Proof

/-- A drawn bit: the value of `undef_1()` at one evaluation (00_scope.md R12, D10). It has no body, so nothing proved
here can depend on which value it is (log 7). -/
opaque Config.undefBit : Nat → Bool

/-- A drawn doubleword: `undef_w()` is its low `w` bits (00_scope.md R12, D10; log 7). -/
opaque Config.undefWord : Nat → BitVec 32

/-- The three kinds of memory access (00_scope.md R7). -/
inductive AccessKind where
  | read
  | write
  | fetch
deriving DecidableEq, Repr

/-- One entry of MEM_ADMIT(a, n, k): an access is admitted when its address `a` is one of the `count` addresses from
`first` on, modulo 2^32, its number of bytes `n` is in `sizes` and its kind `k` in `kinds` (00_scope.md R7). A list of
them can be any predicate on the accesses the machine makes, which are of 1, 2 or 4 bytes (20_memory.md R51; log 5). -/
structure Grant where
  first : Dword
  count : Nat
  sizes : List Nat
  kinds : List AccessKind
deriving DecidableEq, Repr

/-- SEG_BASE for each segment register (00_scope.md R7, 20_memory.md R55). -/
structure SegBases where
  es : Dword
  cs : Dword
  ss : Dword
  ds : Dword
  fs : Dword
  gs : Dword
deriving DecidableEq, Repr

/-- The named parameters of the step relation (00_scope.md R7, 10_state.md R33): the default sizes, SEG_BASE,
MEM_ADMIT (`grants`), and the program text [TEXT_BASE, END_ADDR). No step changes them (log 3). -/
structure Params where
  sizes : Sizes
  segBase : SegBases
  grants : List Grant
  textBase : Dword
  endAddr : Dword
deriving DecidableEq, Repr

end Sys2Proof
end

