-- ==== Sys2Proof/WellFormed.lean ====
section
/-! DEFINITION. Which instruction terms the encoding admits (spec/30_encoding.md R82 to R90): the operand size and
the address size of a term are the ones its marks select from the defaults, its memory operand is one that ModR/M and
SIB bytes can spell, and LOCK stands only where R84 accepts it. -/

namespace Sys2Proof

/-- The operand-size attribute an instruction with these marks has (30_encoding.md R82, R83). -/
def Marks.opsizeIn (p : Marks) (z : Sizes) : OpSize :=
  if p.opsize then z.opsize.other else z.opsize

/-- The address-size attribute an instruction with these marks has (30_encoding.md R82, R83). -/
def Marks.addrsizeIn (p : Marks) (z : Sizes) : OpSize :=
  if p.addrsize then z.addrsize.other else z.addrsize

/-- The memory operand of an R/M operand, if it is one. -/
def RM.mem? {ρ : Type} : RM ρ → Option MemOp
  | .reg _ => none
  | .mem m => some m

/-- The address size a memory operand is written in (30_encoding.md R88, R90). -/
def MemOp.addrsize : MemOp → OpSize
  | .a32 .. => .w32
  | .a16 .. => .w16

/-- There is no displacement. -/
def Disp.isNone {n : Nat} : Disp n → Bool
  | .none => true
  | _ => false

/-- The displacement has the full width of the address size. -/
def Disp.isFull {n : Nat} : Disp n → Bool
  | .full _ => true
  | _ => false

/-- ModR/M and SIB bytes can spell the memory operand (30_encoding.md R88 to R90). Without an SIB byte there is no
index and the base is not ESP; the index is never ESP; without a base the displacement is a full one; a base of EBP
(BP alone in 16-bit addressing) has a displacement. -/
def MemOp.wf : MemOp → Bool
  | .a32 sib base index disp =>
    (match sib, index with
      | false, some _ => false
      | false, none => !decide (base = some .esp)
      | true, some (r, _) => !decide (r = .esp)
      | true, none => true) &&
    (match base with
      | none => disp.isFull
      | some .ebp => !disp.isNone
      | some _ => true)
  | .a16 base index disp =>
    match base, index with
    | none, none => disp.isFull
    | some .bp, none => !disp.isNone
    | _, _ => true

/-- What well-formedness looks at in an instruction: its marks, its operand-size attribute where the form has one,
its memory operand if it has one, and its row's `lock_ok` (30_encoding.md R84, R116). -/
structure Shape where
  marks : Marks
  size : Option OpSize
  mem : Option MemOp
  lockOk : Bool
deriving DecidableEq, Repr

/-- The shape of each row of spec/opcode_table.json. -/
def Instr.shape : Instr → Shape
  | .orRm8R8 p rm _ => ⟨p, none, rm.mem?, true⟩
  | .orRmvRv p v rm _ => ⟨p, some v, rm.mem?, true⟩
  | .orR8Rm8 p _ rm => ⟨p, none, rm.mem?, false⟩
  | .orRvRmv p v _ rm => ⟨p, some v, rm.mem?, false⟩
  | .orAlImm8 p _ => ⟨p, none, none, false⟩
  | .orEaxImmv p x => ⟨p, some x.size, none, false⟩
  | .orRm8Imm8 p rm _ => ⟨p, none, rm.mem?, true⟩
  | .orRmvImmv p rm x => ⟨p, some x.size, rm.mem?, true⟩
  | .orRmvImm8sx p v rm _ => ⟨p, some v, rm.mem?, true⟩
  | .andRm8R8 p rm _ => ⟨p, none, rm.mem?, true⟩
  | .andRmvRv p v rm _ => ⟨p, some v, rm.mem?, true⟩
  | .andR8Rm8 p _ rm => ⟨p, none, rm.mem?, false⟩
  | .andRvRmv p v _ rm => ⟨p, some v, rm.mem?, false⟩
  | .andAlImm8 p _ => ⟨p, none, none, false⟩
  | .andEaxImmv p x => ⟨p, some x.size, none, false⟩
  | .andRm8Imm8 p rm _ => ⟨p, none, rm.mem?, true⟩
  | .andRmvImmv p rm x => ⟨p, some x.size, rm.mem?, true⟩
  | .andRmvImm8sx p v rm _ => ⟨p, some v, rm.mem?, true⟩
  | .xorRm8R8 p rm _ => ⟨p, none, rm.mem?, true⟩
  | .xorRmvRv p v rm _ => ⟨p, some v, rm.mem?, true⟩
  | .xorR8Rm8 p _ rm => ⟨p, none, rm.mem?, false⟩
  | .xorRvRmv p v _ rm => ⟨p, some v, rm.mem?, false⟩
  | .xorAlImm8 p _ => ⟨p, none, none, false⟩
  | .xorEaxImmv p x => ⟨p, some x.size, none, false⟩
  | .xorRm8Imm8 p rm _ => ⟨p, none, rm.mem?, true⟩
  | .xorRmvImmv p rm x => ⟨p, some x.size, rm.mem?, true⟩
  | .xorRmvImm8sx p v rm _ => ⟨p, some v, rm.mem?, true⟩
  | .notRm8 p rm => ⟨p, none, rm.mem?, true⟩
  | .notRmv p v rm => ⟨p, some v, rm.mem?, true⟩
  | .btRmvRv p v rm _ => ⟨p, some v, rm.mem?, false⟩
  | .btRmvImm8 p v rm _ => ⟨p, some v, rm.mem?, false⟩
  | .btsRmvRv p v rm _ => ⟨p, some v, rm.mem?, true⟩
  | .btsRmvImm8 p v rm _ => ⟨p, some v, rm.mem?, true⟩
  | .btrRmvRv p v rm _ => ⟨p, some v, rm.mem?, true⟩
  | .btrRmvImm8 p v rm _ => ⟨p, some v, rm.mem?, true⟩
  | .btcRmvRv p v rm _ => ⟨p, some v, rm.mem?, true⟩
  | .btcRmvImm8 p v rm _ => ⟨p, some v, rm.mem?, true⟩
  | .bsfRvRmv p v _ rm => ⟨p, some v, rm.mem?, false⟩
  | .bsrRvRmv p v _ rm => ⟨p, some v, rm.mem?, false⟩
  | .rolRm8One p rm => ⟨p, none, rm.mem?, false⟩
  | .rolRmvOne p v rm => ⟨p, some v, rm.mem?, false⟩
  | .rolRm8Cl p rm => ⟨p, none, rm.mem?, false⟩
  | .rolRmvCl p v rm => ⟨p, some v, rm.mem?, false⟩
  | .rolRm8Imm8 p rm _ => ⟨p, none, rm.mem?, false⟩
  | .rolRmvImm8 p v rm _ => ⟨p, some v, rm.mem?, false⟩
  | .rorRm8One p rm => ⟨p, none, rm.mem?, false⟩
  | .rorRmvOne p v rm => ⟨p, some v, rm.mem?, false⟩
  | .rorRm8Cl p rm => ⟨p, none, rm.mem?, false⟩
  | .rorRmvCl p v rm => ⟨p, some v, rm.mem?, false⟩
  | .rorRm8Imm8 p rm _ => ⟨p, none, rm.mem?, false⟩
  | .rorRmvImm8 p v rm _ => ⟨p, some v, rm.mem?, false⟩
  | .rclRm8One p rm => ⟨p, none, rm.mem?, false⟩
  | .rclRmvOne p v rm => ⟨p, some v, rm.mem?, false⟩
  | .rclRm8Cl p rm => ⟨p, none, rm.mem?, false⟩
  | .rclRmvCl p v rm => ⟨p, some v, rm.mem?, false⟩
  | .rclRm8Imm8 p rm _ => ⟨p, none, rm.mem?, false⟩
  | .rclRmvImm8 p v rm _ => ⟨p, some v, rm.mem?, false⟩
  | .rcrRm8One p rm => ⟨p, none, rm.mem?, false⟩
  | .rcrRmvOne p v rm => ⟨p, some v, rm.mem?, false⟩
  | .rcrRm8Cl p rm => ⟨p, none, rm.mem?, false⟩
  | .rcrRmvCl p v rm => ⟨p, some v, rm.mem?, false⟩
  | .rcrRm8Imm8 p rm _ => ⟨p, none, rm.mem?, false⟩
  | .rcrRmvImm8 p v rm _ => ⟨p, some v, rm.mem?, false⟩
  | .shlRm8One p rm => ⟨p, none, rm.mem?, false⟩
  | .shlRmvOne p v rm => ⟨p, some v, rm.mem?, false⟩
  | .shlRm8Cl p rm => ⟨p, none, rm.mem?, false⟩
  | .shlRmvCl p v rm => ⟨p, some v, rm.mem?, false⟩
  | .shlRm8Imm8 p rm _ => ⟨p, none, rm.mem?, false⟩
  | .shlRmvImm8 p v rm _ => ⟨p, some v, rm.mem?, false⟩
  | .shrRm8One p rm => ⟨p, none, rm.mem?, false⟩
  | .shrRmvOne p v rm => ⟨p, some v, rm.mem?, false⟩
  | .shrRm8Cl p rm => ⟨p, none, rm.mem?, false⟩
  | .shrRmvCl p v rm => ⟨p, some v, rm.mem?, false⟩
  | .shrRm8Imm8 p rm _ => ⟨p, none, rm.mem?, false⟩
  | .shrRmvImm8 p v rm _ => ⟨p, some v, rm.mem?, false⟩
  | .sarRm8One p rm => ⟨p, none, rm.mem?, false⟩
  | .sarRmvOne p v rm => ⟨p, some v, rm.mem?, false⟩
  | .sarRm8Cl p rm => ⟨p, none, rm.mem?, false⟩
  | .sarRmvCl p v rm => ⟨p, some v, rm.mem?, false⟩
  | .sarRm8Imm8 p rm _ => ⟨p, none, rm.mem?, false⟩
  | .sarRmvImm8 p v rm _ => ⟨p, some v, rm.mem?, false⟩
  | .shldRmvRvImm8 p v rm _ _ => ⟨p, some v, rm.mem?, false⟩
  | .shldRmvRvCl p v rm _ => ⟨p, some v, rm.mem?, false⟩
  | .shrdRmvRvImm8 p v rm _ _ => ⟨p, some v, rm.mem?, false⟩
  | .shrdRmvRvCl p v rm _ => ⟨p, some v, rm.mem?, false⟩
  | .seto p rm => ⟨p, none, rm.mem?, false⟩
  | .setno p rm => ⟨p, none, rm.mem?, false⟩
  | .setc p rm => ⟨p, none, rm.mem?, false⟩
  | .setnc p rm => ⟨p, none, rm.mem?, false⟩
  | .sete p rm => ⟨p, none, rm.mem?, false⟩
  | .setne p rm => ⟨p, none, rm.mem?, false⟩
  | .setbe p rm => ⟨p, none, rm.mem?, false⟩
  | .setnbe p rm => ⟨p, none, rm.mem?, false⟩
  | .sets p rm => ⟨p, none, rm.mem?, false⟩
  | .setns p rm => ⟨p, none, rm.mem?, false⟩
  | .setp p rm => ⟨p, none, rm.mem?, false⟩
  | .setnp p rm => ⟨p, none, rm.mem?, false⟩
  | .setl p rm => ⟨p, none, rm.mem?, false⟩
  | .setnl p rm => ⟨p, none, rm.mem?, false⟩
  | .setle p rm => ⟨p, none, rm.mem?, false⟩
  | .setnle p rm => ⟨p, none, rm.mem?, false⟩
  | .jcRel8 p v _ => ⟨p, some v, none, false⟩
  | .jcRelv p x => ⟨p, some x.size, none, false⟩
  | .jncRel8 p v _ => ⟨p, some v, none, false⟩
  | .jncRelv p x => ⟨p, some x.size, none, false⟩
  | .idivRm8 p rm => ⟨p, none, rm.mem?, false⟩
  | .idivRmv p v rm => ⟨p, some v, rm.mem?, false⟩

/-- The marks that stand before an instruction's opcode. -/
def Instr.marks (i : Instr) : Marks := i.shape.marks

/-- The operand size of the term is the one its marks select (30_encoding.md R83). -/
def Shape.sizeOk (h : Shape) (z : Sizes) : Bool :=
  match h.size with
  | none => true
  | some v => decide (v = h.marks.opsizeIn z)

/-- The memory operand of the term can be spelt and is of the address size its marks select (R83, R88 to R90). -/
def Shape.memOk (h : Shape) (z : Sizes) : Bool :=
  match h.mem with
  | none => true
  | some m => m.wf && decide (m.addrsize = h.marks.addrsizeIn z)

/-- LOCK stands only on a `lock_ok` row with a memory operand (30_encoding.md R84). -/
def Shape.lockFits (h : Shape) : Bool :=
  !h.marks.lock || (h.lockOk && h.mem.isSome)

/-- A term the encoding admits, but for LOCK (30_encoding.md R82 to R90). -/
def Instr.wfRaw (z : Sizes) (i : Instr) : Bool :=
  i.shape.sizeOk z && i.shape.memOk z

/-- A well-formed instruction under the default sizes `z`. -/
def Instr.wf (z : Sizes) (i : Instr) : Bool :=
  i.wfRaw z && i.shape.lockFits

end Sys2Proof
end

