-- ==== Sys2Proof/Decode.lean ====
section
/-! DEFINITION. The decoder, total on any bytes, and after it the encoder, both written from spec/30_encoding.md R81
to R101. PRESUMED (log 19): the spec itself takes the whole binary encoding from general knowledge (R6, D1). -/

namespace Sys2Proof

/-! ### Numbers of registers, segments and scales (10_state.md R21, 30_encoding.md R82, R89) -/

/-- Register number `n` at width 16 or 32 (10_state.md R21). -/
def Reg.ofBits (n : BitVec 3) : Reg :=
  match n.toNat with
  | 0 => .eax | 1 => .ecx | 2 => .edx | 3 => .ebx | 4 => .esp | 5 => .ebp | 6 => .esi | _ => .edi

/-- The number of a register at width 16 or 32 (10_state.md R21). -/
def Reg.toBits : Reg → BitVec 3
  | .eax => 0 | .ecx => 1 | .edx => 2 | .ebx => 3 | .esp => 4 | .ebp => 5 | .esi => 6 | .edi => 7

/-- Register number `n` at width 8 (10_state.md R21). -/
def Reg8.ofBits (n : BitVec 3) : Reg8 :=
  match n.toNat with
  | 0 => .al | 1 => .cl | 2 => .dl | 3 => .bl | 4 => .ah | 5 => .ch | 6 => .dh | _ => .bh

/-- The number of a register at width 8 (10_state.md R21). -/
def Reg8.toBits : Reg8 → BitVec 3
  | .al => 0 | .cl => 1 | .dl => 2 | .bl => 3 | .ah => 4 | .ch => 5 | .dh => 6 | .bh => 7

/-- `scale = 2^ss` (30_encoding.md R89). -/
def Scale.ofBits (ss : BitVec 2) : Scale :=
  match ss.toNat with
  | 0 => .x1 | 1 => .x2 | 2 => .x4 | _ => .x8

/-- The `ss` field of a scale (30_encoding.md R89). -/
def Scale.toBits : Scale → BitVec 2
  | .x1 => 0 | .x2 => 1 | .x4 => 2 | .x8 => 3

/-- An R/M operand with its register number read at some width. -/
def RM.map {ρ σ : Type} (f : ρ → σ) : RM ρ → RM σ
  | .reg r => .reg (f r)
  | .mem m => .mem m

/-! ### What a decoder answers -/

/-- Why a byte sequence is not an instruction of the model. Raised by the decoder; each is a refusal of the step
(30_encoding.md R110), which is safe, except `lockNotAccepted`, which the step turns into the fault InvalidOpcode (R84),
and `truncated`, which asks for a byte that the fetch could not give. -/
inductive DecodeError where
  /-- The bytes end inside the instruction. -/
  | truncated
  /-- F2 or F3 (R82). -/
  | repeatPrefix
  /-- A second mark of one kind (R82). -/
  | secondMark
  /-- No row of spec/opcode_table.json has this opcode (R110). -/
  | unknownOpcode
  /-- No row of spec/opcode_table.json has this opcode with this `reg` field (R97, R99, R110). -/
  | unknownExtension
  /-- An SIB byte with no index and a scale (R89). -/
  | scaledNoIndex
  /-- LOCK where R84 does not accept it. -/
  | lockNotAccepted
deriving DecidableEq, Repr

/-- One or two opcode bytes (30_encoding.md R81). -/
inductive Opcode where
  | one (b : Byte)
  | esc (b : Byte)
deriving DecidableEq, Repr

/-- The parts an instruction's bytes are made of (30_encoding.md R81). A part the opcode does not have holds the
default shown. -/
structure Parts where
  marks : Marks
  op : Opcode
  reg : BitVec 3 := 0
  rm : RM (BitVec 3) := .reg 0
  ib : Byte := 0
  iv : ImmV := .i32 0
deriving DecidableEq, Repr

/-- What follows an opcode as immediate (30_encoding.md R91): nothing, one byte (`ib`, `cb`), or `v` bits
(`iv`, `cv`). -/
inductive ImmKind where
  | no
  | byte
  | full
deriving DecidableEq, Repr

/-- What follows an opcode: whether a ModR/M byte, and which immediate (30_encoding.md R92). -/
structure Layout where
  modrm : Bool
  imm : ImmKind
deriving DecidableEq, Repr

/-- The layout after each opcode of the table (30_encoding.md R93 to R101). -/
def Opcode.layout : Opcode → Option Layout
  | .one b =>
    match b.toNat with
    | 0x08 | 0x09 | 0x0A | 0x0B | 0x20 | 0x21 | 0x22 | 0x23 | 0x30 | 0x31 | 0x32 | 0x33 | 0xD0 | 0xD1 | 0xD2
    | 0xD3 | 0xF6 | 0xF7 => some ⟨true, .no⟩
    | 0x0C | 0x24 | 0x34 | 0x72 | 0x73 => some ⟨false, .byte⟩
    | 0x0D | 0x25 | 0x35 => some ⟨false, .full⟩
    | 0x80 | 0x83 | 0xC0 | 0xC1 => some ⟨true, .byte⟩
    | 0x81 => some ⟨true, .full⟩
    | _ => none
  | .esc b =>
    match b.toNat with
    | 0x82 | 0x83 => some ⟨false, .full⟩
    | 0x90 | 0x91 | 0x92 | 0x93 | 0x94 | 0x95 | 0x96 | 0x97 | 0x98 | 0x99 | 0x9A | 0x9B | 0x9C | 0x9D | 0x9E
    | 0x9F | 0xA3 | 0xA5 | 0xAB | 0xAD | 0xB3 | 0xBB | 0xBC | 0xBD => some ⟨true, .no⟩
    | 0xA4 | 0xAC | 0xBA => some ⟨true, .byte⟩
    | _ => none

/-! ### Reading bytes -/

/-- One byte. -/
def take8 : List Byte → Except DecodeError (Byte × List Byte)
  | b :: bs => .ok (b, bs)
  | [] => .error .truncated

/-- Two bytes, little-endian (30_encoding.md R81, R91). -/
def take16 : List Byte → Except DecodeError (BitVec 16 × List Byte)
  | b0 :: b1 :: bs => .ok (b1 ++ b0, bs)
  | _ => .error .truncated

/-- Four bytes, little-endian (30_encoding.md R81, R91). -/
def take32 : List Byte → Except DecodeError (BitVec 32 × List Byte)
  | b0 :: b1 :: b2 :: b3 :: bs => .ok (b3 ++ b2 ++ b1 ++ b0, bs)
  | _ => .error .truncated

/-! ### Marks before the opcode (30_encoding.md R82) -/

/-- The kinds of byte that may stand before an opcode (30_encoding.md R82). -/
inductive MarkByte where
  | opsize
  | addrsize
  | seg (s : Seg)
  | lock
  | repeat
deriving DecidableEq, Repr

/-- The table of R82. -/
def markOf (b : Byte) : Option MarkByte :=
  match b.toNat with
  | 0x66 => some .opsize
  | 0x67 => some .addrsize
  | 0x26 => some (.seg .es)
  | 0x2E => some (.seg .cs)
  | 0x36 => some (.seg .ss)
  | 0x3E => some (.seg .ds)
  | 0x64 => some (.seg .fs)
  | 0x65 => some (.seg .gs)
  | 0xF0 => some .lock
  | 0xF2 | 0xF3 => some .repeat
  | _ => none

/-- Adding one mark: at most one of each kind; F2 and F3 are refused (30_encoding.md R82). -/
def Marks.add (p : Marks) : MarkByte → Except DecodeError Marks
  | .opsize => if p.opsize then .error .secondMark else .ok { p with opsize := true }
  | .addrsize => if p.addrsize then .error .secondMark else .ok { p with addrsize := true }
  | .seg g => if p.seg.isSome then .error .secondMark else .ok { p with seg := some g }
  | .lock => if p.lock then .error .secondMark else .ok { p with lock := true }
  | .repeat => .error .repeatPrefix

/-- The marks at the head of the bytes, in any order, and the bytes after them (30_encoding.md R81, R82). -/
def takeMarks : List Byte → Marks → Except DecodeError (Marks × List Byte)
  | [], _ => .error .truncated
  | b :: bs, p =>
    match markOf b with
    | none => .ok (p, b :: bs)
    | some k =>
      match p.add k with
      | .error e => .error e
      | .ok p' => takeMarks bs p'

/-- One opcode byte, or 0F and one more (30_encoding.md R81). -/
def takeOpcode : List Byte → Except DecodeError (Opcode × List Byte)
  | [] => .error .truncated
  | b :: bs =>
    if b = 0x0F then
      match bs with
      | [] => .error .truncated
      | c :: cs => .ok (.esc c, cs)
    else .ok (.one b, bs)

/-! ### ModR/M, SIB and displacement (30_encoding.md R85 to R90) -/

/-- The displacement that `mod` = 00, 01 or 10 announces in 32-bit addressing (30_encoding.md R88). -/
def takeDisp32 (md : BitVec 2) (bs : List Byte) : Except DecodeError (Disp 32 × List Byte) :=
  match md.toNat with
  | 0 => .ok (.none, bs)
  | 1 => (take8 bs).map fun (d, r) => (.d8 d, r)
  | _ => (take32 bs).map fun (d, r) => (.full d, r)

/-- The displacement that `mod` = 00, 01 or 10 announces in 16-bit addressing (30_encoding.md R90). -/
def takeDisp16 (md : BitVec 2) (bs : List Byte) : Except DecodeError (Disp 16 × List Byte) :=
  match md.toNat with
  | 0 => .ok (.none, bs)
  | 1 => (take8 bs).map fun (d, r) => (.d8 d, r)
  | _ => (take16 bs).map fun (d, r) => (.full d, r)

/-- The index that an SIB byte names: `index = 100` is none, and then `ss` must be 00 (30_encoding.md R89). -/
def sibIndex (ss : BitVec 2) (idx : BitVec 3) : Except DecodeError (Option (Reg × Scale)) :=
  if idx = 4 then
    if ss = 0 then .ok none else .error .scaledNoIndex
  else .ok (some (Reg.ofBits idx, Scale.ofBits ss))

/-- A base, or with `mod` = 00 and number 101 no base and a full displacement; used after ModR/M without an SIB byte
and after an SIB byte alike (30_encoding.md R88, R89). -/
def takeBase32 (sib : Bool) (index : Option (Reg × Scale)) (md : BitVec 2) (base : BitVec 3) (bs : List Byte) :
    Except DecodeError (MemOp × List Byte) :=
  if md = 0 ∧ base = 5 then
    (take32 bs).map fun (d, r) => (.a32 sib none index (.full d), r)
  else
    (takeDisp32 md bs).map fun (d, r) => (.a32 sib (some (Reg.ofBits base)) index d, r)

/-- A memory operand in 32-bit addressing, `mod` not 11 (30_encoding.md R88, R89). -/
def takeMem32 (md : BitVec 2) (rm : BitVec 3) (bs : List Byte) : Except DecodeError (MemOp × List Byte) :=
  if rm = 4 then
    match bs with
    | [] => .error .truncated
    | b :: bs' =>
      match sibIndex (b.extractLsb' 6 2) (b.extractLsb' 3 3) with
      | .error e => .error e
      | .ok index => takeBase32 true index md (b.extractLsb' 0 3) bs'
  else takeBase32 false none md rm bs

/-- Base and index of 16-bit addressing (30_encoding.md R90). -/
def pair16 (rm : BitVec 3) : Option Base16 × Option Index16 :=
  match rm.toNat with
  | 0 => (some .bx, some .si)
  | 1 => (some .bx, some .di)
  | 2 => (some .bp, some .si)
  | 3 => (some .bp, some .di)
  | 4 => (none, some .si)
  | 5 => (none, some .di)
  | 6 => (some .bp, none)
  | _ => (some .bx, none)

/-- A memory operand in 16-bit addressing, `mod` not 11 (30_encoding.md R90). -/
def takeMem16 (md : BitVec 2) (rm : BitVec 3) (bs : List Byte) : Except DecodeError (MemOp × List Byte) :=
  if md = 0 ∧ rm = 6 then
    (take16 bs).map fun (d, r) => (.a16 none none (.full d), r)
  else
    (takeDisp16 md bs).map fun (d, r) => (.a16 (pair16 rm).1 (pair16 rm).2 d, r)

/-- The `reg` field and the R/M operand that a ModR/M byte and what follows it give (30_encoding.md R85). -/
def takeModrm (asz : OpSize) : List Byte → Except DecodeError ((BitVec 3 × RM (BitVec 3)) × List Byte)
  | [] => .error .truncated
  | b :: bs =>
    let md := b.extractLsb' 6 2
    let reg := b.extractLsb' 3 3
    let rm := b.extractLsb' 0 3
    if md = 3 then .ok ((reg, .reg rm), bs)
    else
      (match asz with
        | .w32 => takeMem32 md rm bs
        | .w16 => takeMem16 md rm bs).map fun (m, r) => ((reg, .mem m), r)

/-- An immediate of the operand size (30_encoding.md R91). -/
def takeImmV (v : OpSize) (bs : List Byte) : Except DecodeError (ImmV × List Byte) :=
  match v with
  | .w16 => (take16 bs).map fun (x, r) => (.i16 x, r)
  | .w32 => (take32 bs).map fun (x, r) => (.i32 x, r)

/-- The immediate of a layout, put into the parts (30_encoding.md R91). -/
def takeImm (k : ImmKind) (v : OpSize) (q : Parts) (bs : List Byte) : Except DecodeError (Parts × List Byte) :=
  match k with
  | .no => .ok (q, bs)
  | .byte => (take8 bs).map fun (x, r) => ({ q with ib := x }, r)
  | .full => (takeImmV v bs).map fun (x, r) => ({ q with iv := x }, r)

/-- What follows the opcode, by its layout (30_encoding.md R81). -/
def takeOperands (z : Sizes) (y : Layout) (q : Parts) (bs : List Byte) : Except DecodeError (Parts × List Byte) :=
  if y.modrm then
    match takeModrm (q.marks.addrsizeIn z) bs with
    | .error e => .error e
    | .ok ((reg, rm), r) => takeImm y.imm (q.marks.opsizeIn z) { q with reg := reg, rm := rm } r
  else takeImm y.imm (q.marks.opsizeIn z) q bs

/-- The parts of the instruction at the head of the bytes, and the bytes after it (30_encoding.md R81). Where the bytes
are no row, how many of them are asked for before the refusal is the model's choice (DESIGN CHOICE, log 25): a repeated
or REP mark and an unknown opcode are refused at once, an SIB byte with no index and a scale when it is read, and an
unknown `reg` field only after the displacement and the immediate. -/
def takeParts (z : Sizes) (bs : List Byte) : Except DecodeError (Parts × List Byte) :=
  match takeMarks bs Marks.empty with
  | .error e => .error e
  | .ok (p, bs1) =>
    match takeOpcode bs1 with
    | .error e => .error e
    | .ok (op, bs2) =>
      match op.layout with
      | none => .error .unknownOpcode
      | some y => takeOperands z y { marks := p, op := op } bs2

/-! ### From parts to the instruction (30_encoding.md R93 to R101) -/

/-- The R/M operand of a byte form. -/
def Parts.rm8 (q : Parts) : Rm8 := q.rm.map Reg8.ofBits

/-- The R/M operand of a word or doubleword form. -/
def Parts.rmv (q : Parts) : Rmv := q.rm.map Reg.ofBits

/-- The `reg` operand of a byte form. -/
def Parts.reg8 (q : Parts) : Reg8 := Reg8.ofBits q.reg

/-- The `reg` operand of a word or doubleword form. -/
def Parts.regv (q : Parts) : Reg := Reg.ofBits q.reg

/-- The row that a one-byte opcode, with its `reg` field where that holds opcode bits, selects; `v` is the operand
size (30_encoding.md R93, R94, R97, R100, R101). -/
def buildOne (v : OpSize) (q : Parts) (b : Byte) : Except DecodeError Instr :=
  match b.toNat with
  | 0x08 => .ok (.orRm8R8 q.marks q.rm8 q.reg8)
  | 0x09 => .ok (.orRmvRv q.marks v q.rmv q.regv)
  | 0x0A => .ok (.orR8Rm8 q.marks q.reg8 q.rm8)
  | 0x0B => .ok (.orRvRmv q.marks v q.regv q.rmv)
  | 0x0C => .ok (.orAlImm8 q.marks q.ib)
  | 0x0D => .ok (.orEaxImmv q.marks q.iv)
  | 0x20 => .ok (.andRm8R8 q.marks q.rm8 q.reg8)
  | 0x21 => .ok (.andRmvRv q.marks v q.rmv q.regv)
  | 0x22 => .ok (.andR8Rm8 q.marks q.reg8 q.rm8)
  | 0x23 => .ok (.andRvRmv q.marks v q.regv q.rmv)
  | 0x24 => .ok (.andAlImm8 q.marks q.ib)
  | 0x25 => .ok (.andEaxImmv q.marks q.iv)
  | 0x30 => .ok (.xorRm8R8 q.marks q.rm8 q.reg8)
  | 0x31 => .ok (.xorRmvRv q.marks v q.rmv q.regv)
  | 0x32 => .ok (.xorR8Rm8 q.marks q.reg8 q.rm8)
  | 0x33 => .ok (.xorRvRmv q.marks v q.regv q.rmv)
  | 0x34 => .ok (.xorAlImm8 q.marks q.ib)
  | 0x35 => .ok (.xorEaxImmv q.marks q.iv)
  | 0x72 => .ok (.jcRel8 q.marks v q.ib)
  | 0x73 => .ok (.jncRel8 q.marks v q.ib)
  | 0x80 =>
    match q.reg.toNat with
    | 1 => .ok (.orRm8Imm8 q.marks q.rm8 q.ib)
    | 4 => .ok (.andRm8Imm8 q.marks q.rm8 q.ib)
    | 6 => .ok (.xorRm8Imm8 q.marks q.rm8 q.ib)
    | _ => .error .unknownExtension
  | 0x81 =>
    match q.reg.toNat with
    | 1 => .ok (.orRmvImmv q.marks q.rmv q.iv)
    | 4 => .ok (.andRmvImmv q.marks q.rmv q.iv)
    | 6 => .ok (.xorRmvImmv q.marks q.rmv q.iv)
    | _ => .error .unknownExtension
  | 0x83 =>
    match q.reg.toNat with
    | 1 => .ok (.orRmvImm8sx q.marks v q.rmv q.ib)
    | 4 => .ok (.andRmvImm8sx q.marks v q.rmv q.ib)
    | 6 => .ok (.xorRmvImm8sx q.marks v q.rmv q.ib)
    | _ => .error .unknownExtension
  | 0xC0 =>
    match q.reg.toNat with
    | 0 => .ok (.rolRm8Imm8 q.marks q.rm8 q.ib)
    | 1 => .ok (.rorRm8Imm8 q.marks q.rm8 q.ib)
    | 2 => .ok (.rclRm8Imm8 q.marks q.rm8 q.ib)
    | 3 => .ok (.rcrRm8Imm8 q.marks q.rm8 q.ib)
    | 4 => .ok (.shlRm8Imm8 q.marks q.rm8 q.ib)
    | 5 => .ok (.shrRm8Imm8 q.marks q.rm8 q.ib)
    | 7 => .ok (.sarRm8Imm8 q.marks q.rm8 q.ib)
    | _ => .error .unknownExtension
  | 0xC1 =>
    match q.reg.toNat with
    | 0 => .ok (.rolRmvImm8 q.marks v q.rmv q.ib)
    | 1 => .ok (.rorRmvImm8 q.marks v q.rmv q.ib)
    | 2 => .ok (.rclRmvImm8 q.marks v q.rmv q.ib)
    | 3 => .ok (.rcrRmvImm8 q.marks v q.rmv q.ib)
    | 4 => .ok (.shlRmvImm8 q.marks v q.rmv q.ib)
    | 5 => .ok (.shrRmvImm8 q.marks v q.rmv q.ib)
    | 7 => .ok (.sarRmvImm8 q.marks v q.rmv q.ib)
    | _ => .error .unknownExtension
  | 0xD0 =>
    match q.reg.toNat with
    | 0 => .ok (.rolRm8One q.marks q.rm8)
    | 1 => .ok (.rorRm8One q.marks q.rm8)
    | 2 => .ok (.rclRm8One q.marks q.rm8)
    | 3 => .ok (.rcrRm8One q.marks q.rm8)
    | 4 => .ok (.shlRm8One q.marks q.rm8)
    | 5 => .ok (.shrRm8One q.marks q.rm8)
    | 7 => .ok (.sarRm8One q.marks q.rm8)
    | _ => .error .unknownExtension
  | 0xD1 =>
    match q.reg.toNat with
    | 0 => .ok (.rolRmvOne q.marks v q.rmv)
    | 1 => .ok (.rorRmvOne q.marks v q.rmv)
    | 2 => .ok (.rclRmvOne q.marks v q.rmv)
    | 3 => .ok (.rcrRmvOne q.marks v q.rmv)
    | 4 => .ok (.shlRmvOne q.marks v q.rmv)
    | 5 => .ok (.shrRmvOne q.marks v q.rmv)
    | 7 => .ok (.sarRmvOne q.marks v q.rmv)
    | _ => .error .unknownExtension
  | 0xD2 =>
    match q.reg.toNat with
    | 0 => .ok (.rolRm8Cl q.marks q.rm8)
    | 1 => .ok (.rorRm8Cl q.marks q.rm8)
    | 2 => .ok (.rclRm8Cl q.marks q.rm8)
    | 3 => .ok (.rcrRm8Cl q.marks q.rm8)
    | 4 => .ok (.shlRm8Cl q.marks q.rm8)
    | 5 => .ok (.shrRm8Cl q.marks q.rm8)
    | 7 => .ok (.sarRm8Cl q.marks q.rm8)
    | _ => .error .unknownExtension
  | 0xD3 =>
    match q.reg.toNat with
    | 0 => .ok (.rolRmvCl q.marks v q.rmv)
    | 1 => .ok (.rorRmvCl q.marks v q.rmv)
    | 2 => .ok (.rclRmvCl q.marks v q.rmv)
    | 3 => .ok (.rcrRmvCl q.marks v q.rmv)
    | 4 => .ok (.shlRmvCl q.marks v q.rmv)
    | 5 => .ok (.shrRmvCl q.marks v q.rmv)
    | 7 => .ok (.sarRmvCl q.marks v q.rmv)
    | _ => .error .unknownExtension
  | 0xF6 =>
    match q.reg.toNat with
    | 2 => .ok (.notRm8 q.marks q.rm8)
    | 7 => .ok (.idivRm8 q.marks q.rm8)
    | _ => .error .unknownExtension
  | 0xF7 =>
    match q.reg.toNat with
    | 2 => .ok (.notRmv q.marks v q.rmv)
    | 7 => .ok (.idivRmv q.marks v q.rmv)
    | _ => .error .unknownExtension
  | _ => .error .unknownOpcode

/-- The row that 0F and a second opcode byte, with the `reg` field where that holds opcode bits, select
(30_encoding.md R95, R96, R98, R99, R100). -/
def buildEsc (v : OpSize) (q : Parts) (b : Byte) : Except DecodeError Instr :=
  match b.toNat with
  | 0x82 => .ok (.jcRelv q.marks q.iv)
  | 0x83 => .ok (.jncRelv q.marks q.iv)
  | 0x90 =>
    match q.reg.toNat with
    | 0 => .ok (.seto q.marks q.rm8)
    | _ => .error .unknownExtension
  | 0x91 =>
    match q.reg.toNat with
    | 0 => .ok (.setno q.marks q.rm8)
    | _ => .error .unknownExtension
  | 0x92 =>
    match q.reg.toNat with
    | 0 => .ok (.setc q.marks q.rm8)
    | _ => .error .unknownExtension
  | 0x93 =>
    match q.reg.toNat with
    | 0 => .ok (.setnc q.marks q.rm8)
    | _ => .error .unknownExtension
  | 0x94 =>
    match q.reg.toNat with
    | 0 => .ok (.sete q.marks q.rm8)
    | _ => .error .unknownExtension
  | 0x95 =>
    match q.reg.toNat with
    | 0 => .ok (.setne q.marks q.rm8)
    | _ => .error .unknownExtension
  | 0x96 =>
    match q.reg.toNat with
    | 0 => .ok (.setbe q.marks q.rm8)
    | _ => .error .unknownExtension
  | 0x97 =>
    match q.reg.toNat with
    | 0 => .ok (.setnbe q.marks q.rm8)
    | _ => .error .unknownExtension
  | 0x98 =>
    match q.reg.toNat with
    | 0 => .ok (.sets q.marks q.rm8)
    | _ => .error .unknownExtension
  | 0x99 =>
    match q.reg.toNat with
    | 0 => .ok (.setns q.marks q.rm8)
    | _ => .error .unknownExtension
  | 0x9A =>
    match q.reg.toNat with
    | 0 => .ok (.setp q.marks q.rm8)
    | _ => .error .unknownExtension
  | 0x9B =>
    match q.reg.toNat with
    | 0 => .ok (.setnp q.marks q.rm8)
    | _ => .error .unknownExtension
  | 0x9C =>
    match q.reg.toNat with
    | 0 => .ok (.setl q.marks q.rm8)
    | _ => .error .unknownExtension
  | 0x9D =>
    match q.reg.toNat with
    | 0 => .ok (.setnl q.marks q.rm8)
    | _ => .error .unknownExtension
  | 0x9E =>
    match q.reg.toNat with
    | 0 => .ok (.setle q.marks q.rm8)
    | _ => .error .unknownExtension
  | 0x9F =>
    match q.reg.toNat with
    | 0 => .ok (.setnle q.marks q.rm8)
    | _ => .error .unknownExtension
  | 0xA3 => .ok (.btRmvRv q.marks v q.rmv q.regv)
  | 0xA4 => .ok (.shldRmvRvImm8 q.marks v q.rmv q.regv q.ib)
  | 0xA5 => .ok (.shldRmvRvCl q.marks v q.rmv q.regv)
  | 0xAB => .ok (.btsRmvRv q.marks v q.rmv q.regv)
  | 0xAC => .ok (.shrdRmvRvImm8 q.marks v q.rmv q.regv q.ib)
  | 0xAD => .ok (.shrdRmvRvCl q.marks v q.rmv q.regv)
  | 0xB3 => .ok (.btrRmvRv q.marks v q.rmv q.regv)
  | 0xBA =>
    match q.reg.toNat with
    | 4 => .ok (.btRmvImm8 q.marks v q.rmv q.ib)
    | 5 => .ok (.btsRmvImm8 q.marks v q.rmv q.ib)
    | 6 => .ok (.btrRmvImm8 q.marks v q.rmv q.ib)
    | 7 => .ok (.btcRmvImm8 q.marks v q.rmv q.ib)
    | _ => .error .unknownExtension
  | 0xBB => .ok (.btcRmvRv q.marks v q.rmv q.regv)
  | 0xBC => .ok (.bsfRvRmv q.marks v q.regv q.rmv)
  | 0xBD => .ok (.bsrRvRmv q.marks v q.regv q.rmv)
  | _ => .error .unknownOpcode

/-- The instruction that the parts select (30_encoding.md R92). -/
def build (z : Sizes) (q : Parts) : Except DecodeError Instr :=
  match q.op with
  | .one b => buildOne (q.marks.opsizeIn z) q b
  | .esc b => buildEsc (q.marks.opsizeIn z) q b

/-- The rows whose `lock_ok` is true, by opcode and `reg` field: AND, OR, XOR in the formats RM_R, RM_IMM, RM_IMM8SX;
NOT; BTS, BTR, BTC in both formats (30_encoding.md R84). -/
def lockRow (op : Opcode) (reg : BitVec 3) : Bool :=
  match op with
  | .one b =>
    match b.toNat with
    | 0x08 | 0x09 | 0x20 | 0x21 | 0x30 | 0x31 => true
    | 0x80 | 0x81 | 0x83 => reg = 1 || reg = 4 || reg = 6
    | 0xF6 | 0xF7 => reg = 2
    | _ => false
  | .esc b =>
    match b.toNat with
    | 0xAB | 0xB3 | 0xBB => true
    | 0xBA => reg = 5 || reg = 6 || reg = 7
    | _ => false

/-- LOCK stands where R84 accepts it, or not at all. -/
def Parts.lockFits (q : Parts) : Bool :=
  !q.marks.lock || (lockRow q.op q.reg && q.rm.mem?.isSome)

/-- The instruction at the head of the bytes and the bytes after it, whether or not LOCK fits: what the sweep of the
program text reads (70_reset_and_hazards.md R276). -/
def decodeRaw (z : Sizes) (bs : List Byte) : Except DecodeError (Instr × List Byte) :=
  match takeParts z bs with
  | .error e => .error e
  | .ok (q, r) =>
    match build z q with
    | .error e => .error e
    | .ok i => .ok (i, r)

/-- The decoder: total on any bytes; it answers the instruction at their head and the bytes after it, or the name of
what is wrong. LOCK is judged last (30_encoding.md R84, R110; log 14). -/
def decode (z : Sizes) (bs : List Byte) : Except DecodeError (Instr × List Byte) :=
  match takeParts z bs with
  | .error e => .error e
  | .ok (q, r) =>
    match build z q with
    | .error e => .error e
    | .ok i => if q.lockFits then .ok (i, r) else .error .lockNotAccepted

/-! ### The encoder -/

/-- Two bytes, the low one first (30_encoding.md R81). -/
def bytes16 (x : BitVec 16) : List Byte := [x.extractLsb' 0 8, x.extractLsb' 8 8]

/-- Four bytes, the low one first (30_encoding.md R81). -/
def bytes32 (x : BitVec 32) : List Byte :=
  [x.extractLsb' 0 8, x.extractLsb' 8 8, x.extractLsb' 16 8, x.extractLsb' 24 8]

/-- The override byte of a segment (30_encoding.md R82). -/
def Seg.markByte : Seg → Byte
  | .es => 0x26 | .cs => 0x2E | .ss => 0x36 | .ds => 0x3E | .fs => 0x64 | .gs => 0x65

/-- The bytes of the marks, in one fixed order of the orders R82 allows: LOCK, 66, 67, segment
(DESIGN CHOICE, log 15). -/
def Marks.bytes (p : Marks) : List Byte :=
  (if p.lock then [0xF0] else []) ++ (if p.opsize then [0x66] else []) ++ (if p.addrsize then [0x67] else []) ++
    (match p.seg with
      | none => []
      | some g => [g.markByte])

/-- The opcode bytes (30_encoding.md R81). -/
def Opcode.bytes : Opcode → List Byte
  | .one b => [b]
  | .esc b => [0x0F, b]

/-- `mod`, `reg`, `rm` in one byte (30_encoding.md R85). -/
def modrmByte (md : BitVec 2) (reg rm : BitVec 3) : Byte := md ++ reg ++ rm

/-- The `mod` field a displacement asks for beside a base (30_encoding.md R88, R90). -/
def Disp.mod {n : Nat} : Disp n → BitVec 2
  | .none => 0
  | .d8 _ => 1
  | .full _ => 2

/-- The bytes of a displacement of 32-bit addressing. -/
def disp32Bytes : Disp 32 → List Byte
  | .none => []
  | .d8 d => [d]
  | .full d => bytes32 d

/-- The bytes of a displacement of 16-bit addressing. -/
def disp16Bytes : Disp 16 → List Byte
  | .none => []
  | .d8 d => [d]
  | .full d => bytes16 d

/-- The number that stands for the base, 101 for none (30_encoding.md R88, R89). -/
def baseBits : Option Reg → BitVec 3
  | none => 5
  | some r => r.toBits

/-- The SIB byte of an index and a base (30_encoding.md R89). -/
def sibByte (index : Option (Reg × Scale)) (base : Option Reg) : Byte :=
  match index with
  | none => modrmByte 0 4 (baseBits base)
  | some (r, k) => modrmByte k.toBits r.toBits (baseBits base)

/-- The `rm` field of base and index of 16-bit addressing (30_encoding.md R90). -/
def pair16Bits : Option Base16 → Option Index16 → BitVec 3
  | some .bx, some .si => 0
  | some .bx, some .di => 1
  | some .bp, some .si => 2
  | some .bp, some .di => 3
  | none, some .si => 4
  | none, some .di => 5
  | some .bp, none => 6
  | none, none => 6
  | some .bx, none => 7

/-- ModR/M, SIB and displacement bytes (30_encoding.md R85 to R90). -/
def modrmBytes (reg : BitVec 3) : RM (BitVec 3) → List Byte
  | .reg n => [modrmByte 3 reg n]
  | .mem (.a32 sib base index disp) =>
    let md := if base = none then 0 else disp.mod
    (if sib then [modrmByte md reg 4, sibByte index base] else [modrmByte md reg (baseBits base)]) ++ disp32Bytes disp
  | .mem (.a16 base index disp) =>
    let md := if base = none ∧ index = none then 0 else disp.mod
    modrmByte md reg (pair16Bits base index) :: disp16Bytes disp

/-- The bytes of an immediate of the operand size (30_encoding.md R91). -/
def ImmV.bytes : ImmV → List Byte
  | .i16 x => bytes16 x
  | .i32 x => bytes32 x

/-- The bytes of the parts, in the order of R81. -/
def Parts.bytes (q : Parts) : List Byte :=
  q.marks.bytes ++ q.op.bytes ++
    match q.op.layout with
    | none => []
    | some y =>
      (if y.modrm then modrmBytes q.reg q.rm else []) ++
        match y.imm with
        | .no => []
        | .byte => [q.ib]
        | .full => q.iv.bytes

/-- The R/M part of a byte form. -/
def RM.bits8 (x : Rm8) : RM (BitVec 3) := x.map Reg8.toBits

/-- The R/M part of a word or doubleword form. -/
def RM.bitsv (x : Rmv) : RM (BitVec 3) := x.map Reg.toBits

/-- The parts of each row of spec/opcode_table.json: its opcode bytes, its `reg` field, its operands (30_encoding.md R93
to R101). -/
def Instr.parts : Instr → Parts
  | .orRm8R8 p rm r => { marks := p, op := .one 0x08, rm := rm.bits8, reg := r.toBits }
  | .orRmvRv p _ rm r => { marks := p, op := .one 0x09, rm := rm.bitsv, reg := r.toBits }
  | .orR8Rm8 p r rm => { marks := p, op := .one 0x0A, reg := r.toBits, rm := rm.bits8 }
  | .orRvRmv p _ r rm => { marks := p, op := .one 0x0B, reg := r.toBits, rm := rm.bitsv }
  | .orAlImm8 p x => { marks := p, op := .one 0x0C, ib := x }
  | .orEaxImmv p x => { marks := p, op := .one 0x0D, iv := x }
  | .orRm8Imm8 p rm x => { marks := p, op := .one 0x80, reg := 1, rm := rm.bits8, ib := x }
  | .orRmvImmv p rm x => { marks := p, op := .one 0x81, reg := 1, rm := rm.bitsv, iv := x }
  | .orRmvImm8sx p _ rm x => { marks := p, op := .one 0x83, reg := 1, rm := rm.bitsv, ib := x }
  | .andRm8R8 p rm r => { marks := p, op := .one 0x20, rm := rm.bits8, reg := r.toBits }
  | .andRmvRv p _ rm r => { marks := p, op := .one 0x21, rm := rm.bitsv, reg := r.toBits }
  | .andR8Rm8 p r rm => { marks := p, op := .one 0x22, reg := r.toBits, rm := rm.bits8 }
  | .andRvRmv p _ r rm => { marks := p, op := .one 0x23, reg := r.toBits, rm := rm.bitsv }
  | .andAlImm8 p x => { marks := p, op := .one 0x24, ib := x }
  | .andEaxImmv p x => { marks := p, op := .one 0x25, iv := x }
  | .andRm8Imm8 p rm x => { marks := p, op := .one 0x80, reg := 4, rm := rm.bits8, ib := x }
  | .andRmvImmv p rm x => { marks := p, op := .one 0x81, reg := 4, rm := rm.bitsv, iv := x }
  | .andRmvImm8sx p _ rm x => { marks := p, op := .one 0x83, reg := 4, rm := rm.bitsv, ib := x }
  | .xorRm8R8 p rm r => { marks := p, op := .one 0x30, rm := rm.bits8, reg := r.toBits }
  | .xorRmvRv p _ rm r => { marks := p, op := .one 0x31, rm := rm.bitsv, reg := r.toBits }
  | .xorR8Rm8 p r rm => { marks := p, op := .one 0x32, reg := r.toBits, rm := rm.bits8 }
  | .xorRvRmv p _ r rm => { marks := p, op := .one 0x33, reg := r.toBits, rm := rm.bitsv }
  | .xorAlImm8 p x => { marks := p, op := .one 0x34, ib := x }
  | .xorEaxImmv p x => { marks := p, op := .one 0x35, iv := x }
  | .xorRm8Imm8 p rm x => { marks := p, op := .one 0x80, reg := 6, rm := rm.bits8, ib := x }
  | .xorRmvImmv p rm x => { marks := p, op := .one 0x81, reg := 6, rm := rm.bitsv, iv := x }
  | .xorRmvImm8sx p _ rm x => { marks := p, op := .one 0x83, reg := 6, rm := rm.bitsv, ib := x }
  | .notRm8 p rm => { marks := p, op := .one 0xF6, reg := 2, rm := rm.bits8 }
  | .notRmv p _ rm => { marks := p, op := .one 0xF7, reg := 2, rm := rm.bitsv }
  | .btRmvRv p _ rm r => { marks := p, op := .esc 0xA3, rm := rm.bitsv, reg := r.toBits }
  | .btRmvImm8 p _ rm x => { marks := p, op := .esc 0xBA, reg := 4, rm := rm.bitsv, ib := x }
  | .btsRmvRv p _ rm r => { marks := p, op := .esc 0xAB, rm := rm.bitsv, reg := r.toBits }
  | .btsRmvImm8 p _ rm x => { marks := p, op := .esc 0xBA, reg := 5, rm := rm.bitsv, ib := x }
  | .btrRmvRv p _ rm r => { marks := p, op := .esc 0xB3, rm := rm.bitsv, reg := r.toBits }
  | .btrRmvImm8 p _ rm x => { marks := p, op := .esc 0xBA, reg := 6, rm := rm.bitsv, ib := x }
  | .btcRmvRv p _ rm r => { marks := p, op := .esc 0xBB, rm := rm.bitsv, reg := r.toBits }
  | .btcRmvImm8 p _ rm x => { marks := p, op := .esc 0xBA, reg := 7, rm := rm.bitsv, ib := x }
  | .bsfRvRmv p _ r rm => { marks := p, op := .esc 0xBC, reg := r.toBits, rm := rm.bitsv }
  | .bsrRvRmv p _ r rm => { marks := p, op := .esc 0xBD, reg := r.toBits, rm := rm.bitsv }
  | .rolRm8One p rm => { marks := p, op := .one 0xD0, reg := 0, rm := rm.bits8 }
  | .rolRmvOne p _ rm => { marks := p, op := .one 0xD1, reg := 0, rm := rm.bitsv }
  | .rolRm8Cl p rm => { marks := p, op := .one 0xD2, reg := 0, rm := rm.bits8 }
  | .rolRmvCl p _ rm => { marks := p, op := .one 0xD3, reg := 0, rm := rm.bitsv }
  | .rolRm8Imm8 p rm x => { marks := p, op := .one 0xC0, reg := 0, rm := rm.bits8, ib := x }
  | .rolRmvImm8 p _ rm x => { marks := p, op := .one 0xC1, reg := 0, rm := rm.bitsv, ib := x }
  | .rorRm8One p rm => { marks := p, op := .one 0xD0, reg := 1, rm := rm.bits8 }
  | .rorRmvOne p _ rm => { marks := p, op := .one 0xD1, reg := 1, rm := rm.bitsv }
  | .rorRm8Cl p rm => { marks := p, op := .one 0xD2, reg := 1, rm := rm.bits8 }
  | .rorRmvCl p _ rm => { marks := p, op := .one 0xD3, reg := 1, rm := rm.bitsv }
  | .rorRm8Imm8 p rm x => { marks := p, op := .one 0xC0, reg := 1, rm := rm.bits8, ib := x }
  | .rorRmvImm8 p _ rm x => { marks := p, op := .one 0xC1, reg := 1, rm := rm.bitsv, ib := x }
  | .rclRm8One p rm => { marks := p, op := .one 0xD0, reg := 2, rm := rm.bits8 }
  | .rclRmvOne p _ rm => { marks := p, op := .one 0xD1, reg := 2, rm := rm.bitsv }
  | .rclRm8Cl p rm => { marks := p, op := .one 0xD2, reg := 2, rm := rm.bits8 }
  | .rclRmvCl p _ rm => { marks := p, op := .one 0xD3, reg := 2, rm := rm.bitsv }
  | .rclRm8Imm8 p rm x => { marks := p, op := .one 0xC0, reg := 2, rm := rm.bits8, ib := x }
  | .rclRmvImm8 p _ rm x => { marks := p, op := .one 0xC1, reg := 2, rm := rm.bitsv, ib := x }
  | .rcrRm8One p rm => { marks := p, op := .one 0xD0, reg := 3, rm := rm.bits8 }
  | .rcrRmvOne p _ rm => { marks := p, op := .one 0xD1, reg := 3, rm := rm.bitsv }
  | .rcrRm8Cl p rm => { marks := p, op := .one 0xD2, reg := 3, rm := rm.bits8 }
  | .rcrRmvCl p _ rm => { marks := p, op := .one 0xD3, reg := 3, rm := rm.bitsv }
  | .rcrRm8Imm8 p rm x => { marks := p, op := .one 0xC0, reg := 3, rm := rm.bits8, ib := x }
  | .rcrRmvImm8 p _ rm x => { marks := p, op := .one 0xC1, reg := 3, rm := rm.bitsv, ib := x }
  | .shlRm8One p rm => { marks := p, op := .one 0xD0, reg := 4, rm := rm.bits8 }
  | .shlRmvOne p _ rm => { marks := p, op := .one 0xD1, reg := 4, rm := rm.bitsv }
  | .shlRm8Cl p rm => { marks := p, op := .one 0xD2, reg := 4, rm := rm.bits8 }
  | .shlRmvCl p _ rm => { marks := p, op := .one 0xD3, reg := 4, rm := rm.bitsv }
  | .shlRm8Imm8 p rm x => { marks := p, op := .one 0xC0, reg := 4, rm := rm.bits8, ib := x }
  | .shlRmvImm8 p _ rm x => { marks := p, op := .one 0xC1, reg := 4, rm := rm.bitsv, ib := x }
  | .shrRm8One p rm => { marks := p, op := .one 0xD0, reg := 5, rm := rm.bits8 }
  | .shrRmvOne p _ rm => { marks := p, op := .one 0xD1, reg := 5, rm := rm.bitsv }
  | .shrRm8Cl p rm => { marks := p, op := .one 0xD2, reg := 5, rm := rm.bits8 }
  | .shrRmvCl p _ rm => { marks := p, op := .one 0xD3, reg := 5, rm := rm.bitsv }
  | .shrRm8Imm8 p rm x => { marks := p, op := .one 0xC0, reg := 5, rm := rm.bits8, ib := x }
  | .shrRmvImm8 p _ rm x => { marks := p, op := .one 0xC1, reg := 5, rm := rm.bitsv, ib := x }
  | .sarRm8One p rm => { marks := p, op := .one 0xD0, reg := 7, rm := rm.bits8 }
  | .sarRmvOne p _ rm => { marks := p, op := .one 0xD1, reg := 7, rm := rm.bitsv }
  | .sarRm8Cl p rm => { marks := p, op := .one 0xD2, reg := 7, rm := rm.bits8 }
  | .sarRmvCl p _ rm => { marks := p, op := .one 0xD3, reg := 7, rm := rm.bitsv }
  | .sarRm8Imm8 p rm x => { marks := p, op := .one 0xC0, reg := 7, rm := rm.bits8, ib := x }
  | .sarRmvImm8 p _ rm x => { marks := p, op := .one 0xC1, reg := 7, rm := rm.bitsv, ib := x }
  | .shldRmvRvImm8 p _ rm r x => { marks := p, op := .esc 0xA4, rm := rm.bitsv, reg := r.toBits, ib := x }
  | .shldRmvRvCl p _ rm r => { marks := p, op := .esc 0xA5, rm := rm.bitsv, reg := r.toBits }
  | .shrdRmvRvImm8 p _ rm r x => { marks := p, op := .esc 0xAC, rm := rm.bitsv, reg := r.toBits, ib := x }
  | .shrdRmvRvCl p _ rm r => { marks := p, op := .esc 0xAD, rm := rm.bitsv, reg := r.toBits }
  | .seto p rm => { marks := p, op := .esc 0x90, reg := 0, rm := rm.bits8 }
  | .setno p rm => { marks := p, op := .esc 0x91, reg := 0, rm := rm.bits8 }
  | .setc p rm => { marks := p, op := .esc 0x92, reg := 0, rm := rm.bits8 }
  | .setnc p rm => { marks := p, op := .esc 0x93, reg := 0, rm := rm.bits8 }
  | .sete p rm => { marks := p, op := .esc 0x94, reg := 0, rm := rm.bits8 }
  | .setne p rm => { marks := p, op := .esc 0x95, reg := 0, rm := rm.bits8 }
  | .setbe p rm => { marks := p, op := .esc 0x96, reg := 0, rm := rm.bits8 }
  | .setnbe p rm => { marks := p, op := .esc 0x97, reg := 0, rm := rm.bits8 }
  | .sets p rm => { marks := p, op := .esc 0x98, reg := 0, rm := rm.bits8 }
  | .setns p rm => { marks := p, op := .esc 0x99, reg := 0, rm := rm.bits8 }
  | .setp p rm => { marks := p, op := .esc 0x9A, reg := 0, rm := rm.bits8 }
  | .setnp p rm => { marks := p, op := .esc 0x9B, reg := 0, rm := rm.bits8 }
  | .setl p rm => { marks := p, op := .esc 0x9C, reg := 0, rm := rm.bits8 }
  | .setnl p rm => { marks := p, op := .esc 0x9D, reg := 0, rm := rm.bits8 }
  | .setle p rm => { marks := p, op := .esc 0x9E, reg := 0, rm := rm.bits8 }
  | .setnle p rm => { marks := p, op := .esc 0x9F, reg := 0, rm := rm.bits8 }
  | .jcRel8 p _ x => { marks := p, op := .one 0x72, ib := x }
  | .jcRelv p x => { marks := p, op := .esc 0x82, iv := x }
  | .jncRel8 p _ x => { marks := p, op := .one 0x73, ib := x }
  | .jncRelv p x => { marks := p, op := .esc 0x83, iv := x }
  | .idivRm8 p rm => { marks := p, op := .one 0xF6, reg := 7, rm := rm.bits8 }
  | .idivRmv p _ rm => { marks := p, op := .one 0xF7, reg := 7, rm := rm.bitsv }

/-- The encoder: the bytes of an instruction (30_encoding.md R81). -/
def encode (i : Instr) : List Byte := i.parts.bytes

/-- The number of bytes of the instruction, marks included (10_state.md R25, 30_encoding.md R81). -/
def Instr.length (i : Instr) : Nat := (encode i).length

/-! ### The host's reading of a table word -/

/-- The default sizes of the spec's own vectors, 32 and 32 (00_scope.md R7, D3; log 4). -/
def Sizes.flat32 : Sizes := ⟨.w32, .w32⟩

/-- The longest instruction, in bytes (30_encoding.md R81). -/
def maxLength : Nat := 15

/-- The bytes of a table word, the first byte in its lowest bits, and zeros after it up to the longest instruction. -/
def tableBytes (nbits w : Nat) : List Byte :=
  (List.range maxLength).map fun k => if k < nbits / 8 then BitVec.ofNat 8 (w >>> (8 * k)) else 0

/-- The instruction the decoder reads from a table word under the default sizes 32 and 32. -/
def decodeTableWord (nbits w : Nat) : Option Instr :=
  match decode .flat32 (tableBytes nbits w) with
  | .ok (i, _) => some i
  | .error _ => none

end Sys2Proof
end

