-- ==== Sys2Proof/Machine/State.lean ====
section
/-! DEFINITION. The state of the machine as plain data (spec/10_state.md), the reasons a step stops, and the state
after reset. -/

namespace Sys2Proof.Machine

/-- The eight general registers of 32 bits (10_state.md R20). Each always holds a value: one that the launch does not
give is any value, not a fault on its read (DESIGN CHOICE between the two that U17 allows, log 26). -/
structure Regs where
  eax : Dword
  ecx : Dword
  edx : Dword
  ebx : Dword
  esp : Dword
  ebp : Dword
  esi : Dword
  edi : Dword
deriving DecidableEq, Repr

/-- The six status flags (10_state.md R26). Each always holds a value: one that the launch does not give is any value
(log 26). -/
structure Flags where
  cf : Bool
  pf : Bool
  af : Bool
  zf : Bool
  sf : Bool
  of : Bool
deriving DecidableEq, Repr

/-- Memory: (linear address, byte) pairs in canonical form (10_state.md R31; `Memory.wf`). -/
abbrev Memory := List Host.Cell

/-- The state of the machine (10_state.md R20 to R31), with the parameters of the step relation (R33; log 3) and the
model's own count of draws (log 7). What a launch does not give (70_reset_and_hazards.md R273) is any value: a claim over
every state speaks of it (log 26). -/
structure State where
  regs : Regs
  eip : Dword
  flags : Flags
  mem : Memory
  draws : Nat
  params : Params
deriving DecidableEq, Repr

/-- The faults of the model (60_exceptions.md R242). A fault is terminal and changes no state (R241). -/
inductive Fault where
  /-- IDIV: divisor zero, or quotient not representable (46_setcc_and_referenced.md R231). Safe. -/
  | divideError
  /-- Decode: LOCK where it is not accepted, with the instruction's address (30_encoding.md R84). Safe. -/
  | invalidOpcode (addr : Dword)
  /-- An access MEM_ADMIT does not admit: linear address, size, kind; raised by every instruction with a memory operand
  and by instruction fetch (20_memory.md R51, 60_exceptions.md R243). Safe. -/
  | memFault (addr : Dword) (size : Nat) (kind : AccessKind)
deriving DecidableEq, Repr

/-- Where the spec gives a run no meaning. -/
inductive Refusal where
  /-- An instruction that has no meaning in this model yet: raised by exec's arms only. Safe. -/
  | notModelled (mnemonic : String)
  /-- The bytes at EIP are no row of the opcode table (30_encoding.md R110). Raised by the fetch. Safe. -/
  | encoding (e : DecodeError)
  /-- The bytes at EIP run past END_ADDR, so they are no instruction of the program text (70_reset_and_hazards.md R276).
  Raised by the fetch. Safe. -/
  | pastText
  /-- More than 15 bytes (30_encoding.md R81). Raised by the fetch; no admitted byte sequence reaches it. Safe. -/
  | tooLong
  /-- A write that overlaps the program text: linear address and size (20_memory.md R63). Raised by every instruction
  that writes memory. Safe. -/
  | textWrite (addr : Dword) (size : Nat)
  /-- EIP is, or would become, an address outside the program text other than END_ADDR (70_reset_and_hazards.md R276).
  Raised by the step. Safe. -/
  | outsideText (eip : Dword)
  /-- EIP would become an address inside the text that is no instruction's start (70_reset_and_hazards.md R276). Raised
  by the step. Safe. -/
  | midInstruction (eip : Dword)
  /-- A jump target past either end of the 32-bit address range (10_state.md R25). Raised by JC and JNC. Safe. -/
  | eipWrap
  /-- EIP = END_ADDR: the run is over, and this final state has no successor (70_reset_and_hazards.md R276). Raised by
  the step. Safe. -/
  | endOfRun
deriving DecidableEq, Repr

/-- The outcome of a step of this machine. -/
abbrev Out := Host.Outcome State Fault Refusal

/-- The parameters' own values: sizes 32 and 32 and bases zero (00_scope.md R7, D3, D4; log 4); every access to the whole
address space admitted (DESIGN CHOICE, log 5); no program text (DESIGN CHOICE, log 11). -/
def Params.initial : Params where
  sizes := .flat32
  segBase := ⟨0, 0, 0, 0, 0, 0⟩
  grants := [⟨0, 2 ^ 32, [1, 2, 4], [.read, .write, .fetch]⟩]
  textBase := 0x0000FFF0
  endAddr := 0x0000FFF0

/-- The machine right after reset. The sources give no reset value (70_reset_and_hazards.md R270); EIP, the flags, EAX
and DH are the ones R271 lists for the 80386 (PRESUMED, log 1), the other registers are zero (DESIGN CHOICE, log 2),
memory lists nothing (DESIGN CHOICE, log 6) and no value has been drawn (DESIGN CHOICE, log 7). -/
def State.reset : State where
  regs := ⟨0, 0, 0x00000300, 0, 0, 0, 0, 0⟩
  eip := 0x0000FFF0
  flags := ⟨false, false, false, false, false, false⟩
  mem := []
  draws := 0
  params := Params.initial

end Sys2Proof.Machine
end

