-- ==== Sys2Proof/Machine/Ops.lean ====
section
/-! DEFINITION. The named operations over registers, memory, the free values and the outcome of an instruction
(spec/10_state.md, 20_memory.md, 60_exceptions.md R241). -/

namespace Sys2Proof.Machine

/-! ### General registers (10_state.md R21 to R23) -/

/-- A 32-bit register (R22). -/
def Regs.get (g : Regs) : Reg → Dword
  | .eax => g.eax | .ecx => g.ecx | .edx => g.edx | .ebx => g.ebx
  | .esp => g.esp | .ebp => g.ebp | .esi => g.esi | .edi => g.edi

/-- Writing all of a 32-bit register (R23). -/
def Regs.set (g : Regs) (r : Reg) (v : Dword) : Regs :=
  match r with
  | .eax => { g with eax := v }
  | .ecx => { g with ecx := v }
  | .edx => { g with edx := v }
  | .ebx => { g with ebx := v }
  | .esp => { g with esp := v }
  | .ebp => { g with ebp := v }
  | .esi => { g with esi := v }
  | .edi => { g with edi := v }

/-- `v` put over the bits of `old` from bit `lo` on; the other bits stay (R23). -/
def insertBits {k : Nat} (old : Dword) (lo : Nat) (v : BitVec k) : Dword :=
  (old &&& ~~~((BitVec.allOnes k).setWidth 32 <<< lo)) ||| (v.setWidth 32 <<< lo)

/-- The 32-bit register that a byte register is part of (R21). -/
def Reg8.whole : Reg8 → Reg
  | .al | .ah => .eax
  | .cl | .ch => .ecx
  | .dl | .dh => .edx
  | .bl | .bh => .ebx

/-- The lowest bit of a byte register inside it: 0 for numbers 0 to 3, 8 for numbers 4 to 7 (R21). -/
def Reg8.low : Reg8 → Nat
  | .al | .cl | .dl | .bl => 0
  | .ah | .ch | .dh | .bh => 8

/-- A byte register (R22). -/
def Regs.get8 (g : Regs) (r : Reg8) : Byte :=
  (g.get (Reg8.whole r)).extractLsb' (Reg8.low r) 8

/-- Writing a byte register: the other 24 bits stay (R23). -/
def Regs.set8 (g : Regs) (r : Reg8) (v : Byte) : Regs :=
  g.set (Reg8.whole r) (insertBits (g.get (Reg8.whole r)) (Reg8.low r) v)

/-- The low `w` bits of a register, `w` = 16 or 32 (R22). -/
def Regs.getW (g : Regs) (w : Nat) (r : Reg) : BitVec w :=
  (g.get r).setWidth w

/-- Writing the low `w` bits of a register, `w` = 16 or 32: the bits above stay (R23). -/
def Regs.setW (g : Regs) {w : Nat} (r : Reg) (v : BitVec w) : Regs :=
  g.set r (insertBits (g.get r) 0 v)

/-! ### Memory (10_state.md R31, 20_memory.md R50, R51) -/

/-- What a byte that memory does not list reads as (DESIGN CHOICE, unsafe, log 6). -/
def unlistedByte : Byte := 0

/-- The byte at an address. -/
def Memory.byte : List Host.Cell → Nat → Byte
  | [], _ => unlistedByte
  | c :: m, a => if a = c.1 then c.2 else Memory.byte m a

/-- Writing the byte at an address, in canonical form: the byte an unlisted address reads as is not listed. -/
def Memory.set : List Host.Cell → Nat → Byte → List Host.Cell
  | [], a, v => if v = unlistedByte then [] else [(a, v)]
  | c :: m, a, v =>
    if a < c.1 then (if v = unlistedByte then c :: m else (a, v) :: c :: m)
    else if a = c.1 then (if v = unlistedByte then m else (a, v) :: m)
    else c :: Memory.set m a v

/-- The canonical form from address `lo` on: addresses strictly rise and stay below 2^32, and no listed byte is the one
an unlisted address reads as. -/
def Memory.wfFrom : Nat → List Host.Cell → Bool
  | _, [] => true
  | lo, c :: m =>
    decide (lo ≤ c.1) && decide (c.1 < 2 ^ 32) && !decide (c.2 = unlistedByte) && Memory.wfFrom (c.1 + 1) m

/-- Memory is in its canonical form. -/
def Memory.wf (m : Memory) : Bool := Memory.wfFrom 0 m

/-- The byte at a linear address. -/
def State.byteAt (s : State) (a : Dword) : Byte := Memory.byte s.mem a.toNat

/-- The `n` bytes from `a` on as a number, the lowest address least significant, addresses modulo 2^32 (R50, R51). -/
def Memory.loadNat (m : Memory) : Nat → Dword → Nat
  | 0, _ => 0
  | n + 1, a => (Memory.byte m a.toNat).toNat + 256 * Memory.loadNat m n (a + 1)

/-- `MemRead(a, w/8)` of an admitted access (R51). -/
def Memory.load (m : Memory) (w : Nat) (a : Dword) : BitVec w :=
  BitVec.ofNat w (Memory.loadNat m (w / 8) a)

/-- Storing the low `n` bytes of a number from `a` on, the least significant at the lowest address (R50, R51). -/
def Memory.storeNat (m : Memory) : Nat → Dword → Nat → Memory
  | 0, _, _ => m
  | n + 1, a, v => Memory.storeNat (Memory.set m a.toNat (BitVec.ofNat 8 v)) n (a + 1) (v / 256)

/-- `MemWrite(a, w/8, v)` of an admitted access (R51). -/
def Memory.store (m : Memory) {w : Nat} (a : Dword) (v : BitVec w) : Memory :=
  Memory.storeNat m (w / 8) a v.toNat

/-! ### Admission, segments and the program text (00_scope.md R7, 20_memory.md R51, R55, R63) -/

/-- The grant admits an access of `n` bytes at `a` of kind `k` (00_scope.md R7). -/
def Grant.admits (g : Grant) (a : Dword) (n : Nat) (k : AccessKind) : Bool :=
  g.kinds.contains k && g.sizes.contains n && decide ((a - g.first).toNat < g.count)

/-- MEM_ADMIT(a, n, k): one of the grants admits the access (00_scope.md R7, 20_memory.md R51; log 5). -/
def State.admits (s : State) (a : Dword) (n : Nat) (k : AccessKind) : Bool :=
  s.params.grants.any fun g => Grant.admits g a n k

/-- SEG_BASE (00_scope.md R7). -/
def SegBases.base (b : SegBases) : Seg → Dword
  | .es => b.es | .cs => b.cs | .ss => b.ss | .ds => b.ds | .fs => b.fs | .gs => b.gs

/-- The linear address of an offset under a segment (20_memory.md R55). -/
def State.linear (s : State) (g : Seg) (off : Dword) : Dword :=
  SegBases.base s.params.segBase g + off

/-- The value of EIP is inside the program text [TEXT_BASE, END_ADDR) (00_scope.md R7). -/
def State.inText (s : State) (off : Dword) : Bool :=
  decide (s.params.textBase.toNat ≤ off.toNat) && decide (off.toNat < s.params.endAddr.toNat)

/-- One of the `n` bytes at linear address `a` belongs to the program text, whose bytes stand at the linear addresses of
CS (20_memory.md R63; DEDUCED, log 9). -/
def State.hitsText (s : State) (a : Dword) (n : Nat) : Bool :=
  (List.range n).any fun j => s.inText (a + BitVec.ofNat 32 j - SegBases.base s.params.segBase .cs)

/-! ### Free values (00_scope.md R12; log 7) -/

/-- The `k`-th `undef_1()` of the instruction that runs in `s`. -/
def State.undef (s : State) (k : Nat) : Bool := Config.undefBit (s.draws + k)

/-- The `k`-th draw of the instruction that runs in `s`, as `undef_w()`. -/
def State.undefW (s : State) (w k : Nat) : BitVec w := (Config.undefWord (s.draws + k)).setWidth w

/-! ### The end of an instruction -/

/-- Taking an exception. A fault is a terminal outcome: no register, flag or memory byte is changed and EIP still holds
the faulting instruction's address; no handler is entered and there is no return (60_exceptions.md R241, R247, R248). -/
def raise (f : Fault) : Out := .fault f

/-- The flags, the number of values drawn, and `EIP <- EIP + length` modulo 2^32 (10_state.md R25). The step refuses a
run whose EIP leaves the text, so no run goes on past a wrap (log 13). -/
def State.finish (s : State) (f : Flags) (drawn len : Nat) : State :=
  { s with flags := f, draws := s.draws + drawn, eip := s.eip + BitVec.ofNat 32 len }

end Sys2Proof.Machine
end

