-- ==== Sys2Proof/Machine/Operands.lean ====
section
/-! DEFINITION. Operands: where an operand is, reading and writing it, which accesses are admitted, and counts
(spec/20_memory.md R55, R56, R65, 30_encoding.md R91, 43_shift.md R171). -/

namespace Sys2Proof.Machine

/-- Where an operand is: a byte register, a register at width 16 or 32, or a linear address (20_memory.md R56). -/
inductive Place where
  | byteReg (r : Reg8)
  | reg (r : Reg)
  | mem (a : Dword)
deriving DecidableEq, Repr

/-! ### Addresses (20_memory.md R55, 30_encoding.md R88 to R90) -/

/-- The factor of an index register (R55). -/
def Scale.factor : Scale → Nat
  | .x1 => 1 | .x2 => 2 | .x4 => 4 | .x8 => 8

/-- A displacement, sign-extended to the address size (R55). -/
def Disp.value {n : Nat} : Disp n → BitVec n
  | .none => 0
  | .d8 d => d.signExtend n
  | .full d => d

/-- The base register of 16-bit addressing (R55). -/
def Base16.reg : Base16 → Reg
  | .bx => .ebx
  | .bp => .ebp

/-- The index register of 16-bit addressing (R55). -/
def Index16.reg : Index16 → Reg
  | .si => .esi
  | .di => .edi

/-- The offset (effective address) of a memory operand (R55). -/
def MemOp.offset (m : MemOp) (g : Regs) : Dword :=
  match m with
  | .a32 _ base index disp =>
    (match base with
      | none => 0
      | some b => g.get b) +
    (match index with
      | none => 0
      | some (x, k) => g.get x * BitVec.ofNat 32 (Scale.factor k)) +
    Disp.value disp
  | .a16 base index disp =>
    ((match base with
      | none => 0
      | some b => g.getW 16 (Base16.reg b)) +
    (match index with
      | none => 0
      | some x => g.getW 16 (Index16.reg x)) +
    Disp.value disp : BitVec 16).setWidth 32

/-- The segment used when no override stands before the instruction: SS when the base is ESP, EBP or BP, else DS (R55). -/
def MemOp.defaultSeg : MemOp → Seg
  | .a32 _ (some .esp) _ _ => .ss
  | .a32 _ (some .ebp) _ _ => .ss
  | .a32 _ _ _ _ => .ds
  | .a16 (some .bp) _ _ => .ss
  | .a16 _ _ _ => .ds

/-- The segment of a memory operand: the override's, or the default one (R55, 30_encoding.md R82). -/
def MemOp.seg (m : MemOp) (p : Marks) : Seg :=
  p.seg.getD (MemOp.defaultSeg m)

/-- The linear address of a memory operand, from register values before the instruction (R55, R56). -/
def MemOp.addr (m : MemOp) (p : Marks) (s : State) : Dword :=
  s.linear (MemOp.seg m p) (MemOp.offset m s.regs)

/-- Where the R/M operand of a byte form is. -/
def place8 (p : Marks) (x : Rm8) (s : State) : Place :=
  match x with
  | .reg r => .byteReg r
  | .mem m => .mem (MemOp.addr m p s)

/-- Where the R/M operand of a word or doubleword form is. -/
def placeV (p : Marks) (x : Rmv) (s : State) : Place :=
  match x with
  | .reg r => .reg r
  | .mem m => .mem (MemOp.addr m p s)

/-! ### Reading and writing (20_memory.md R56) -/

/-- `read_rm(w, op)` of an admitted access (R56). -/
def Place.read (x : Place) (w : Nat) (s : State) : BitVec w :=
  match x with
  | .byteReg r => (s.regs.get8 r).setWidth w
  | .reg r => s.regs.getW w r
  | .mem a => Memory.load s.mem w a

/-- `write_rm(w, op, v)` of an admitted access (R56). -/
def Place.write (x : Place) {w : Nat} (v : BitVec w) (s : State) : State :=
  match x with
  | .byteReg r => { s with regs := s.regs.set8 r (v.setWidth 8) }
  | .reg r => { s with regs := s.regs.setW r v }
  | .mem a => { s with mem := Memory.store s.mem a v }

/-! ### Which accesses are admitted (20_memory.md R51, R63, R65) -/

/-- The read of a `w`-bit operand is admitted (R51). -/
def Place.readable (x : Place) (w : Nat) (s : State) : Bool :=
  match x with
  | .mem a => s.admits a (w / 8) .read
  | _ => true

/-- The write of a `w`-bit operand is admitted and does not touch the program text (R51, R63). -/
def Place.writable (x : Place) (w : Nat) (s : State) : Bool :=
  match x with
  | .mem a => !s.hitsText a (w / 8) && s.admits a (w / 8) .write
  | _ => true

/-- The checks before an instruction that reads (`rd`) or writes (`wr`) its `w`-bit operand takes effect as `k`: a write
into the program text is refused (R63; before admission, DEDUCED, log 10), then the read, then the write must be
admitted (R65, 60_exceptions.md R243). -/
def access (x : Place) (w : Nat) (rd wr : Bool) (s : State) (k : Out) : Out :=
  match x with
  | .mem a =>
    if wr && s.hitsText a (w / 8) then .refused (.textWrite a (w / 8))
    else if rd && !s.admits a (w / 8) .read then raise (.memFault a (w / 8) .read)
    else if wr && !s.admits a (w / 8) .write then raise (.memFault a (w / 8) .write)
    else k
  | _ => k

/-! ### Counts (43_shift.md R171, 44_double_shift.md R191, 45_rotate.md R201) -/

/-- The effective count of an immediate byte: its low five bits. -/
def countImm (x : Byte) : Nat := (x &&& 0x1F).toNat

/-- The effective count in CL: its low five bits. -/
def countCl (s : State) : Nat := (s.regs.get8 .cl &&& 0x1F).toNat

end Sys2Proof.Machine
end

