-- ==== Sys2Proof/Machine/Flags.lean ====
section
/-! DEFINITION. Every flag computation of the spec (10_state.md R26 to R28). -/

namespace Sys2Proof.Machine

/-- `parity8(v)`: 1 when the low-order byte holds an even number of 1 bits, whatever the width (00_scope.md R10,
10_state.md R26). -/
def parity8 {w : Nat} (v : BitVec w) : Bool :=
  (List.range 8).foldl (fun acc k => acc ^^ v.getLsbD k) true

/-- `SZP_w(r)` over given CF, AF and OF (10_state.md R26). -/
def szp {w : Nat} (r : BitVec w) (cf af of : Bool) : Flags where
  cf := cf
  pf := parity8 r
  af := af
  zf := decide (r = 0)
  sf := r.msb
  of := of

/-- AND, OR, XOR: OF and CF cleared, AF drawn, SF, ZF, PF from the result (40_boolean.md R121 to R123). One draw. -/
def logicFlags {w : Nat} (r : BitVec w) (s : State) : Flags :=
  szp r false (s.undef 0) false

/-- BT, BTS, BTR, BTC: CF is the selected bit, the other five are drawn (41_bit_test.md R140). Five draws. -/
def bitTestFlags (bit : Bool) (s : State) : Flags where
  cf := bit
  of := s.undef 0
  sf := s.undef 1
  zf := s.undef 2
  af := s.undef 3
  pf := s.undef 4

/-- BSF, BSR: ZF says that no set bit was found, the other five are drawn (42_bit_scan.md R160). Draws 1 to 5. -/
def bitScanFlags (notFound : Bool) (s : State) : Flags where
  zf := notFound
  of := s.undef 1
  sf := s.undef 2
  af := s.undef 3
  pf := s.undef 4
  cf := s.undef 5

/-- OF after a shift or rotate by `c` that took `before` to `after`: whether a single-bit one changed the sign bit, else
drawn `k`-th (43_shift.md R176, 45_rotate.md R206). -/
def signChange {w : Nat} (c : Nat) (before after : BitVec w) (k : Nat) (s : State) : Bool :=
  if c = 1 then before.msb ^^ after.msb else s.undef k

/-- SAL/SHL, SHR, SAR by `c` at least 1: CF is the last bit shifted out, or drawn where `cfFree` (43_shift.md R176, R177,
R180). Three draws. -/
def shiftFlags {w : Nat} (cfFree : Bool) (c : Nat) (before after : BitVec w) (out : Bool) (s : State) : Flags :=
  szp after (if cfFree then s.undef 0 else out) (s.undef 2) (signChange c before after 1 s)

/-- ROL, ROR, RCL, RCR by `c` at least 1: CF and OF only (45_rotate.md R206). One draw. -/
def rotateFlags {w : Nat} (c : Nat) (before after : BitVec w) (out : Bool) (s : State) : Flags :=
  { s.flags with cf := out, of := signChange c before after 0 s }

/-- SHLD, SHRD by `c` from 1 to w-1 (44_double_shift.md R192, R193). Two draws. -/
def doubleShiftFlags {w : Nat} (after : BitVec w) (out : Bool) (s : State) : Flags :=
  szp after out (s.undef 1) (s.undef 0)

/-- All six flags drawn, after IDIV and after a double shift by w or more (46_setcc_and_referenced.md R231,
44_double_shift.md R191). Draws 1 to 6. -/
def drawnFlags (s : State) : Flags where
  of := s.undef 1
  sf := s.undef 2
  zf := s.undef 3
  af := s.undef 4
  pf := s.undef 5
  cf := s.undef 6

/-- The even conditions `cond(2k)` (46_setcc_and_referenced.md R222). -/
def condEven (k : Nat) (f : Flags) : Bool :=
  match k with
  | 0 => f.of
  | 1 => f.cf
  | 2 => f.zf
  | 3 => f.cf || f.zf
  | 4 => f.sf
  | 5 => f.pf
  | 6 => f.sf ^^ f.of
  | _ => f.zf || (f.sf ^^ f.of)

/-- `cond(cc)`: an odd condition is the negation of the even one before it (46_setcc_and_referenced.md R222). -/
def cond (cc : Nat) (f : Flags) : Bool :=
  if cc % 2 = 1 then !condEven (cc / 2) f else condEven (cc / 2) f

/-- The flags in their places in EFLAGS, over the bits `others` that the model does not hold: CF 0, PF 2, AF 4, ZF 6, SF
7, OF 11 (10_state.md R27). No instruction of the model reads it. -/
def Flags.image (f : Flags) (others : Dword) : Dword :=
  (others &&& ~~~(0x8D5 : Dword)) |||
    ((BitVec.ofBool f.cf).setWidth 32 ||| (BitVec.ofBool f.pf).setWidth 32 <<< 2 |||
      (BitVec.ofBool f.af).setWidth 32 <<< 4 ||| (BitVec.ofBool f.zf).setWidth 32 <<< 6 |||
      (BitVec.ofBool f.sf).setWidth 32 <<< 7 ||| (BitVec.ofBool f.of).setWidth 32 <<< 11)

end Sys2Proof.Machine
end

