-- ==== Sys2Proof/Machine/BitScan.lean ====
section
/-! DEFINITION. BSF, BSR (spec/42_bit_scan.md R160 to R163). -/

namespace Sys2Proof.Machine

/-- The index of the first set bit from bit 0 up (R161). -/
def lowestSet {w : Nat} (x : BitVec w) : Option Nat :=
  (List.range w).find? fun k => x.getLsbD k

/-- The index of the first set bit from the highest bit down (R162). -/
def highestSet {w : Nat} (x : BitVec w) : Option Nat :=
  (List.range w).reverse.find? fun k => x.getLsbD k

/-- A bit scan: with no set bit in the source ZF is set and the destination is drawn, else ZF is cleared and the
destination receives the index (R161, R162). Six draws. -/
def bitScan (w : Nat) (find : BitVec w → Option Nat) (dst src : Place) (len : Nat) (s : State) : Out :=
  access src w true false s <|
    match find (src.read w s) with
    | none => .next ((dst.write (s.undefW w 0) s).finish (bitScanFlags true s) 6 len)
    | some k => .next ((dst.write (BitVec.ofNat w k) s).finish (bitScanFlags false s) 6 len)

/-- BSF r v, r/m v (R161). -/
def execBsfRvRmv (p : Marks) (v : OpSize) (dst : Reg) (src : Rmv) (s : State) : Out :=
  bitScan v.bits lowestSet (.reg dst) (placeV p src s) (Instr.bsfRvRmv p v dst src).length s

/-- BSR r v, r/m v (R162). -/
def execBsrRvRmv (p : Marks) (v : OpSize) (dst : Reg) (src : Rmv) (s : State) : Out :=
  bitScan v.bits highestSet (.reg dst) (placeV p src s) (Instr.bsrRvRmv p v dst src).length s

end Sys2Proof.Machine
end

