-- ==== Sys2Proof/Machine/BitTest.lean ====
section
/-! DEFINITION. BT, BTS, BTR, BTC (spec/41_bit_test.md R140 to R148). -/

namespace Sys2Proof.Machine

/-- The `w`-bit unit that holds the selected bit, and the bit's number in it, for an offset in a register: modulo `w` in
a register base (R142); in memory the signed offset into the bit string that starts at the operand, the unit's address
modulo 2^32 (R143; log 20). -/
def selectByReg (w : Nat) (base : Place) (off : BitVec w) : Place × Nat :=
  match base with
  | .mem a => (.mem (a + BitVec.ofInt 32 ((w / 8 : Nat) * off.toInt.fdiv w)), (off.toInt.fmod w).toNat)
  | r => (r, off.toNat % w)

/-- The unit and the bit's number for an immediate offset: modulo `w` (R142). -/
def selectByImm (w : Nat) (base : Place) (off : Byte) : Place × Nat :=
  (base, off.toNat % w)

/-- BT: CF receives the selected bit, nothing else but flags changes (R144). -/
def bitTest (w : Nat) (sel : Place × Nat) (len : Nat) (s : State) : Out :=
  access sel.1 w true false s <|
    .next (s.finish (bitTestFlags ((sel.1.read w s).getLsbD sel.2) s) 5 len)

/-- BTS, BTR, BTC: CF receives the old bit, then the unit is written with `f unit (1 << k)` (R145 to R147). -/
def bitModify (w : Nat) (f : BitVec w → BitVec w → BitVec w) (sel : Place × Nat) (len : Nat) (s : State) : Out :=
  access sel.1 w true true s <|
    let v := sel.1.read w s
    .next ((sel.1.write (f v (1#w <<< sel.2)) s).finish (bitTestFlags (v.getLsbD sel.2) s) 5 len)

/-- BT r/m v, r v (R144). -/
def execBtRmvRv (p : Marks) (v : OpSize) (base : Rmv) (off : Reg) (s : State) : Out :=
  bitTest v.bits (selectByReg v.bits (placeV p base s) (s.regs.getW v.bits off)) (Instr.btRmvRv p v base off).length s

/-- BT r/m v, imm8 (R144). -/
def execBtRmvImm8 (p : Marks) (v : OpSize) (base : Rmv) (off : Byte) (s : State) : Out :=
  bitTest v.bits (selectByImm v.bits (placeV p base s) off) (Instr.btRmvImm8 p v base off).length s

/-- BTS r/m v, r v (R145). -/
def execBtsRmvRv (p : Marks) (v : OpSize) (base : Rmv) (off : Reg) (s : State) : Out :=
  bitModify v.bits (· ||| ·) (selectByReg v.bits (placeV p base s) (s.regs.getW v.bits off))
    (Instr.btsRmvRv p v base off).length s

/-- BTS r/m v, imm8 (R145). -/
def execBtsRmvImm8 (p : Marks) (v : OpSize) (base : Rmv) (off : Byte) (s : State) : Out :=
  bitModify v.bits (· ||| ·) (selectByImm v.bits (placeV p base s) off) (Instr.btsRmvImm8 p v base off).length s

/-- BTR r/m v, r v (R146). -/
def execBtrRmvRv (p : Marks) (v : OpSize) (base : Rmv) (off : Reg) (s : State) : Out :=
  bitModify v.bits (fun x m => x &&& ~~~m) (selectByReg v.bits (placeV p base s) (s.regs.getW v.bits off))
    (Instr.btrRmvRv p v base off).length s

/-- BTR r/m v, imm8 (R146). -/
def execBtrRmvImm8 (p : Marks) (v : OpSize) (base : Rmv) (off : Byte) (s : State) : Out :=
  bitModify v.bits (fun x m => x &&& ~~~m) (selectByImm v.bits (placeV p base s) off)
    (Instr.btrRmvImm8 p v base off).length s

/-- BTC r/m v, r v (R147). -/
def execBtcRmvRv (p : Marks) (v : OpSize) (base : Rmv) (off : Reg) (s : State) : Out :=
  bitModify v.bits (· ^^^ ·) (selectByReg v.bits (placeV p base s) (s.regs.getW v.bits off))
    (Instr.btcRmvRv p v base off).length s

/-- BTC r/m v, imm8 (R147). -/
def execBtcRmvImm8 (p : Marks) (v : OpSize) (base : Rmv) (off : Byte) (s : State) : Out :=
  bitModify v.bits (· ^^^ ·) (selectByImm v.bits (placeV p base s) off) (Instr.btcRmvImm8 p v base off).length s

end Sys2Proof.Machine
end

