-- ==== Sys2Proof/Machine/Divide.lean ====
section
/-! DEFINITION. IDIV (spec/46_setcc_and_referenced.md R230, R231). -/

namespace Sys2Proof.Machine

/-- The signed dividend: AX, DX:AX or EDX:EAX (R231). -/
def dividend (w : Nat) (g : Regs) : Int :=
  if w = 8 then (g.getW 16 .eax).toInt else (g.getW w .edx ++ g.getW w .eax).toInt

/-- The quotient into AL, AX or EAX and the remainder into AH, DX or EDX (R231). -/
def putQuotient (w : Nat) (q r : Int) (g : Regs) : Regs :=
  if w = 8 then (g.set8 .al (BitVec.ofInt 8 q)).set8 .ah (BitVec.ofInt 8 r)
  else (g.setW .eax (BitVec.ofInt w q)).setW .edx (BitVec.ofInt w r)

/-- IDIV by a `w`-bit divisor: the quotient rounded toward zero (R230, R231). A quotient of exactly `-2^(w-1)` faults or
completes by a drawn bit (D27; log 16). Seven draws. -/
def divide (w : Nat) (src : Place) (len : Nat) (s : State) : Out :=
  access src w true false s <|
    let d := (src.read w s).toInt
    let n := dividend w s.regs
    let q := n.tdiv d
    let r := n - q * d
    if d = 0 then raise .divideError
    else if q < -((2 ^ (w - 1) : Nat) : Int) ∨ ((2 ^ (w - 1) : Nat) : Int) - 1 < q then raise .divideError
    else if q = -((2 ^ (w - 1) : Nat) : Int) ∧ s.undef 0 = true then raise .divideError
    else .next (State.finish { s with regs := putQuotient w q r s.regs } (drawnFlags s) 7 len)

/-- IDIV r/m8 (R231). -/
def execIdivRm8 (p : Marks) (src : Rm8) (s : State) : Out :=
  divide 8 (place8 p src s) (Instr.idivRm8 p src).length s

/-- IDIV r/m v (R231). -/
def execIdivRmv (p : Marks) (v : OpSize) (src : Rmv) (s : State) : Out :=
  divide v.bits (placeV p src s) (Instr.idivRmv p v src).length s

end Sys2Proof.Machine
end

