-- ==== Sys2Proof/Machine/DoubleShift.lean ====
section
/-! DEFINITION. SHLD, SHRD (spec/44_double_shift.md R190 to R195). -/

namespace Sys2Proof.Machine

/-- SHLD by `c` from 1 to w-1: the high half of `(d ++ s) << c`, and the last bit shifted out of `d` (R192). -/
def shldBits {w : Nat} (d s : BitVec w) (c : Nat) : BitVec w × Bool :=
  (((d ++ s) <<< c).extractLsb' w w, d.getLsbD (w - c))

/-- SHRD by `c` from 1 to w-1: the low half of `(s ++ d) >> c`, and the last bit shifted out of `d` (R193). -/
def shrdBits {w : Nat} (d s : BitVec w) (c : Nat) : BitVec w × Bool :=
  (((s ++ d) >>> c).extractLsb' 0 w, d.getLsbD (c - 1))

/-- A double shift by the effective count `c`: nothing but EIP changes when it is zero, though the destination is read;
by `w` or more the destination and all six flags are drawn; else R192 or R193 (R191). Seven draws at most. -/
def doubleShift (w : Nat) (f : BitVec w → BitVec w → Nat → BitVec w × Bool) (dst : Place) (src : BitVec w)
    (c len : Nat) (s : State) : Out :=
  if c = 0 then access dst w true false s (.next (s.finish s.flags 0 len))
  else
    access dst w true true s <|
      if w ≤ c then .next ((dst.write (s.undefW w 0) s).finish (drawnFlags s) 7 len)
      else
        let r := f (dst.read w s) src c
        .next ((dst.write r.1 s).finish (doubleShiftFlags r.1 r.2 s) 2 len)

/-- SHLD r/m v, r v, imm8 (R192). -/
def execShldRmvRvImm8 (p : Marks) (v : OpSize) (dst : Rmv) (src : Reg) (count : Byte) (s : State) : Out :=
  doubleShift v.bits shldBits (placeV p dst s) (s.regs.getW v.bits src) (countImm count)
    (Instr.shldRmvRvImm8 p v dst src count).length s

/-- SHLD r/m v, r v, CL (R192). -/
def execShldRmvRvCl (p : Marks) (v : OpSize) (dst : Rmv) (src : Reg) (s : State) : Out :=
  doubleShift v.bits shldBits (placeV p dst s) (s.regs.getW v.bits src) (countCl s)
    (Instr.shldRmvRvCl p v dst src).length s

/-- SHRD r/m v, r v, imm8 (R193). -/
def execShrdRmvRvImm8 (p : Marks) (v : OpSize) (dst : Rmv) (src : Reg) (count : Byte) (s : State) : Out :=
  doubleShift v.bits shrdBits (placeV p dst s) (s.regs.getW v.bits src) (countImm count)
    (Instr.shrdRmvRvImm8 p v dst src count).length s

/-- SHRD r/m v, r v, CL (R193). -/
def execShrdRmvRvCl (p : Marks) (v : OpSize) (dst : Rmv) (src : Reg) (s : State) : Out :=
  doubleShift v.bits shrdBits (placeV p dst s) (s.regs.getW v.bits src) (countCl s)
    (Instr.shrdRmvRvCl p v dst src).length s

end Sys2Proof.Machine
end

