-- ==== Sys2Proof/Machine/Jump.lean ====
section
/-! DEFINITION. JC, JNC (spec/46_setcc_and_referenced.md R232 to R235). -/

namespace Sys2Proof.Machine

/-- The value EIP takes for a target `t` inside the 32-bit range: its high half is cleared at operand size 16 (R233). -/
def jumpTarget (v : OpSize) (t : Int) : Dword :=
  match v with
  | .w16 => BitVec.ofInt 32 t &&& 0x0000FFFF
  | .w32 => BitVec.ofInt 32 t

/-- A conditional jump (R233): the target is `next + rel`; a sum outside the 32-bit address range
is refused (10_state.md R25; log 13). -/
def jumpIf (taken : Bool) (v : OpSize) (rel : Int) (len : Nat) (s : State) : Out :=
  let next := s.eip + BitVec.ofNat 32 len
  if taken then
    let t : Int := next.toNat + rel
    if t < 0 ∨ 4294967296 ≤ t then .refused .eipWrap
    else
      .next { s with eip := jumpTarget v t }
  else .next (s.finish s.flags 0 len)

/-- JC rel8 (R234). -/
def execJcRel8 (p : Marks) (v : OpSize) (rel : Byte) (s : State) : Out :=
  jumpIf (cond 2 s.flags) v rel.toInt (Instr.jcRel8 p v rel).length s

/-- JC rel v (R234). -/
def execJcRelv (p : Marks) (rel : ImmV) (s : State) : Out :=
  jumpIf (cond 2 s.flags) rel.size rel.value.toInt (Instr.jcRelv p rel).length s

/-- JNC rel8 (R235). -/
def execJncRel8 (p : Marks) (v : OpSize) (rel : Byte) (s : State) : Out :=
  jumpIf (cond 3 s.flags) v rel.toInt (Instr.jncRel8 p v rel).length s

/-- JNC rel v (R235). -/
def execJncRelv (p : Marks) (rel : ImmV) (s : State) : Out :=
  jumpIf (cond 3 s.flags) rel.size rel.value.toInt (Instr.jncRelv p rel).length s

end Sys2Proof.Machine
end

