-- ==== Sys2Proof/Machine/Logic.lean ====
section
/-! DEFINITION. NOT, AND, OR, XOR (spec/40_boolean.md R120 to R126). -/

namespace Sys2Proof.Machine

/-- AND, OR or XOR (`f`) of a `w`-bit destination with a value (R121 to R123). -/
def logic (w : Nat) (f : BitVec w → BitVec w → BitVec w) (dst : Place) (b : BitVec w) (len : Nat) (s : State) : Out :=
  access dst w true true s <|
    let r := f (dst.read w s) b
    .next ((dst.write r s).finish (logicFlags r s) 1 len)

/-- AND, OR or XOR (`f`) of a register with an R/M operand (R121 to R124). -/
def logicFrom (w : Nat) (f : BitVec w → BitVec w → BitVec w) (dst src : Place) (len : Nat) (s : State) : Out :=
  access src w true false s (logic w f dst (src.read w s) len s)

/-- NOT of a `w`-bit operand: no flag is written (R120). -/
def complement (w : Nat) (dst : Place) (len : Nat) (s : State) : Out :=
  access dst w true true s (.next ((dst.write (~~~dst.read w s) s).finish s.flags 0 len))

/-- OR r/m8, r8 (R122). -/
def execOrRm8R8 (p : Marks) (dst : Rm8) (src : Reg8) (s : State) : Out :=
  logic 8 (· ||| ·) (place8 p dst s) (s.regs.get8 src) (Instr.orRm8R8 p dst src).length s

/-- OR r/m v, r v (R122). -/
def execOrRmvRv (p : Marks) (v : OpSize) (dst : Rmv) (src : Reg) (s : State) : Out :=
  logic v.bits (· ||| ·) (placeV p dst s) (s.regs.getW v.bits src) (Instr.orRmvRv p v dst src).length s

/-- OR r8, r/m8 (R122). -/
def execOrR8Rm8 (p : Marks) (dst : Reg8) (src : Rm8) (s : State) : Out :=
  logicFrom 8 (· ||| ·) (.byteReg dst) (place8 p src s) (Instr.orR8Rm8 p dst src).length s

/-- OR r v, r/m v (R122). -/
def execOrRvRmv (p : Marks) (v : OpSize) (dst : Reg) (src : Rmv) (s : State) : Out :=
  logicFrom v.bits (· ||| ·) (.reg dst) (placeV p src s) (Instr.orRvRmv p v dst src).length s

/-- OR AL, imm8 (R122). -/
def execOrAlImm8 (p : Marks) (imm : Byte) (s : State) : Out :=
  logic 8 (· ||| ·) (.byteReg .al) imm (Instr.orAlImm8 p imm).length s

/-- OR eAX, imm v (R122). -/
def execOrEaxImmv (p : Marks) (imm : ImmV) (s : State) : Out :=
  logic imm.size.bits (· ||| ·) (.reg .eax) imm.value (Instr.orEaxImmv p imm).length s

/-- OR r/m8, imm8 (R122). -/
def execOrRm8Imm8 (p : Marks) (dst : Rm8) (imm : Byte) (s : State) : Out :=
  logic 8 (· ||| ·) (place8 p dst s) imm (Instr.orRm8Imm8 p dst imm).length s

/-- OR r/m v, imm v (R122). -/
def execOrRmvImmv (p : Marks) (dst : Rmv) (imm : ImmV) (s : State) : Out :=
  logic imm.size.bits (· ||| ·) (placeV p dst s) imm.value (Instr.orRmvImmv p dst imm).length s

/-- OR r/m v, imm8 sign-extended (R122). -/
def execOrRmvImm8sx (p : Marks) (v : OpSize) (dst : Rmv) (imm : Byte) (s : State) : Out :=
  logic v.bits (· ||| ·) (placeV p dst s) (imm.signExtend v.bits) (Instr.orRmvImm8sx p v dst imm).length s

/-- AND r/m8, r8 (R121). -/
def execAndRm8R8 (p : Marks) (dst : Rm8) (src : Reg8) (s : State) : Out :=
  logic 8 (· &&& ·) (place8 p dst s) (s.regs.get8 src) (Instr.andRm8R8 p dst src).length s

/-- AND r/m v, r v (R121). -/
def execAndRmvRv (p : Marks) (v : OpSize) (dst : Rmv) (src : Reg) (s : State) : Out :=
  logic v.bits (· &&& ·) (placeV p dst s) (s.regs.getW v.bits src) (Instr.andRmvRv p v dst src).length s

/-- AND r8, r/m8 (R121). -/
def execAndR8Rm8 (p : Marks) (dst : Reg8) (src : Rm8) (s : State) : Out :=
  logicFrom 8 (· &&& ·) (.byteReg dst) (place8 p src s) (Instr.andR8Rm8 p dst src).length s

/-- AND r v, r/m v (R121). -/
def execAndRvRmv (p : Marks) (v : OpSize) (dst : Reg) (src : Rmv) (s : State) : Out :=
  logicFrom v.bits (· &&& ·) (.reg dst) (placeV p src s) (Instr.andRvRmv p v dst src).length s

/-- AND AL, imm8 (R121). -/
def execAndAlImm8 (p : Marks) (imm : Byte) (s : State) : Out :=
  logic 8 (· &&& ·) (.byteReg .al) imm (Instr.andAlImm8 p imm).length s

/-- AND eAX, imm v (R121). -/
def execAndEaxImmv (p : Marks) (imm : ImmV) (s : State) : Out :=
  logic imm.size.bits (· &&& ·) (.reg .eax) imm.value (Instr.andEaxImmv p imm).length s

/-- AND r/m8, imm8 (R121). -/
def execAndRm8Imm8 (p : Marks) (dst : Rm8) (imm : Byte) (s : State) : Out :=
  logic 8 (· &&& ·) (place8 p dst s) imm (Instr.andRm8Imm8 p dst imm).length s

/-- AND r/m v, imm v (R121). -/
def execAndRmvImmv (p : Marks) (dst : Rmv) (imm : ImmV) (s : State) : Out :=
  logic imm.size.bits (· &&& ·) (placeV p dst s) imm.value (Instr.andRmvImmv p dst imm).length s

/-- AND r/m v, imm8 sign-extended (R121). -/
def execAndRmvImm8sx (p : Marks) (v : OpSize) (dst : Rmv) (imm : Byte) (s : State) : Out :=
  logic v.bits (· &&& ·) (placeV p dst s) (imm.signExtend v.bits) (Instr.andRmvImm8sx p v dst imm).length s

/-- XOR r/m8, r8 (R123). -/
def execXorRm8R8 (p : Marks) (dst : Rm8) (src : Reg8) (s : State) : Out :=
  logic 8 (· ^^^ ·) (place8 p dst s) (s.regs.get8 src) (Instr.xorRm8R8 p dst src).length s

/-- XOR r/m v, r v (R123). -/
def execXorRmvRv (p : Marks) (v : OpSize) (dst : Rmv) (src : Reg) (s : State) : Out :=
  logic v.bits (· ^^^ ·) (placeV p dst s) (s.regs.getW v.bits src) (Instr.xorRmvRv p v dst src).length s

/-- XOR r8, r/m8 (R123). -/
def execXorR8Rm8 (p : Marks) (dst : Reg8) (src : Rm8) (s : State) : Out :=
  logicFrom 8 (· ^^^ ·) (.byteReg dst) (place8 p src s) (Instr.xorR8Rm8 p dst src).length s

/-- XOR r v, r/m v (R123). -/
def execXorRvRmv (p : Marks) (v : OpSize) (dst : Reg) (src : Rmv) (s : State) : Out :=
  logicFrom v.bits (· ^^^ ·) (.reg dst) (placeV p src s) (Instr.xorRvRmv p v dst src).length s

/-- XOR AL, imm8 (R123). -/
def execXorAlImm8 (p : Marks) (imm : Byte) (s : State) : Out :=
  logic 8 (· ^^^ ·) (.byteReg .al) imm (Instr.xorAlImm8 p imm).length s

/-- XOR eAX, imm v (R123). -/
def execXorEaxImmv (p : Marks) (imm : ImmV) (s : State) : Out :=
  logic imm.size.bits (· ^^^ ·) (.reg .eax) imm.value (Instr.xorEaxImmv p imm).length s

/-- XOR r/m8, imm8 (R123). -/
def execXorRm8Imm8 (p : Marks) (dst : Rm8) (imm : Byte) (s : State) : Out :=
  logic 8 (· ^^^ ·) (place8 p dst s) imm (Instr.xorRm8Imm8 p dst imm).length s

/-- XOR r/m v, imm v (R123). -/
def execXorRmvImmv (p : Marks) (dst : Rmv) (imm : ImmV) (s : State) : Out :=
  logic imm.size.bits (· ^^^ ·) (placeV p dst s) imm.value (Instr.xorRmvImmv p dst imm).length s

/-- XOR r/m v, imm8 sign-extended (R123). -/
def execXorRmvImm8sx (p : Marks) (v : OpSize) (dst : Rmv) (imm : Byte) (s : State) : Out :=
  logic v.bits (· ^^^ ·) (placeV p dst s) (imm.signExtend v.bits) (Instr.xorRmvImm8sx p v dst imm).length s

/-- NOT r/m8 (R120). -/
def execNotRm8 (p : Marks) (dst : Rm8) (s : State) : Out :=
  complement 8 (place8 p dst s) (Instr.notRm8 p dst).length s

/-- NOT r/m v (R120). -/
def execNotRmv (p : Marks) (v : OpSize) (dst : Rmv) (s : State) : Out :=
  complement v.bits (placeV p dst s) (Instr.notRmv p v dst).length s

end Sys2Proof.Machine
end

