-- ==== Sys2Proof/Machine/Shift.lean ====
section
/-! DEFINITION. SAL/SHL, SHR, SAR (spec/43_shift.md R170 to R180), and the bit-at-a-time repetition that shifts and
rotates share. -/

namespace Sys2Proof.Machine

/-- One bit position of a shift or rotate, `c` times: each takes the value and CF to the new value and CF (R173 to R175,
45_rotate.md R202 to R205). -/
def repeatBit {w : Nat} (g : BitVec w → Bool → BitVec w × Bool) : Nat → BitVec w → Bool → BitVec w × Bool
  | 0, v, f => (v, f)
  | c + 1, v, f => repeatBit g c (g v f).1 (g v f).2

/-- One place left: the high bit exits to CF and a zero enters (R173). -/
def shlBit {w : Nat} (v : BitVec w) (_ : Bool) : BitVec w × Bool := (v <<< 1, v.msb)

/-- One place right: bit 0 exits to CF and a zero enters (R174). -/
def shrBit {w : Nat} (v : BitVec w) (_ : Bool) : BitVec w × Bool := (v >>> 1, v.getLsbD 0)

/-- One place right: bit 0 exits to CF and the old sign bit is kept at the top (R175). -/
def sarBit {w : Nat} (v : BitVec w) (_ : Bool) : BitVec w × Bool :=
  (v >>> 1 ||| (BitVec.ofBool v.msb).setWidth w <<< (w - 1), v.getLsbD 0)

/-- A shift by the effective count `c`: nothing but EIP changes when it is zero, though the operand is read (R172);
else the result is written and the flags follow R176, R177, R180. Three draws. -/
def shift (w : Nat) (g : BitVec w → Bool → BitVec w × Bool) (cfFree : Bool) (dst : Place) (c len : Nat) (s : State) :
    Out :=
  if c = 0 then access dst w true false s (.next (s.finish s.flags 0 len))
  else
    access dst w true true s <|
      let v0 := dst.read w s
      let r := repeatBit g c v0 s.flags.cf
      .next ((dst.write r.1 s).finish (shiftFlags cfFree c v0 r.1 r.2 s) 3 len)

/-- SAL and SHL: CF is drawn when the count reaches the width (R173, R180). -/
def shiftLeft (w : Nat) (dst : Place) (c len : Nat) (s : State) : Out :=
  shift w shlBit (decide (w ≤ c)) dst c len s

/-- SHR: CF is drawn when the count reaches the width (R174, R180). -/
def shiftRight (w : Nat) (dst : Place) (c len : Nat) (s : State) : Out :=
  shift w shrBit (decide (w ≤ c)) dst c len s

/-- SAR: CF is always defined (R175, R180). -/
def shiftArith (w : Nat) (dst : Place) (c len : Nat) (s : State) : Out :=
  shift w sarBit false dst c len s

/-- SHL r/m8, 1 (R173). -/
def execShlRm8One (p : Marks) (dst : Rm8) (s : State) : Out :=
  shiftLeft 8 (place8 p dst s) 1 (Instr.shlRm8One p dst).length s

/-- SHL r/m v, 1 (R173). -/
def execShlRmvOne (p : Marks) (v : OpSize) (dst : Rmv) (s : State) : Out :=
  shiftLeft v.bits (placeV p dst s) 1 (Instr.shlRmvOne p v dst).length s

/-- SHL r/m8, CL (R173). -/
def execShlRm8Cl (p : Marks) (dst : Rm8) (s : State) : Out :=
  shiftLeft 8 (place8 p dst s) (countCl s) (Instr.shlRm8Cl p dst).length s

/-- SHL r/m v, CL (R173). -/
def execShlRmvCl (p : Marks) (v : OpSize) (dst : Rmv) (s : State) : Out :=
  shiftLeft v.bits (placeV p dst s) (countCl s) (Instr.shlRmvCl p v dst).length s

/-- SHL r/m8, imm8 (R173). -/
def execShlRm8Imm8 (p : Marks) (dst : Rm8) (count : Byte) (s : State) : Out :=
  shiftLeft 8 (place8 p dst s) (countImm count) (Instr.shlRm8Imm8 p dst count).length s

/-- SHL r/m v, imm8 (R173). -/
def execShlRmvImm8 (p : Marks) (v : OpSize) (dst : Rmv) (count : Byte) (s : State) : Out :=
  shiftLeft v.bits (placeV p dst s) (countImm count) (Instr.shlRmvImm8 p v dst count).length s

/-- SHR r/m8, 1 (R174). -/
def execShrRm8One (p : Marks) (dst : Rm8) (s : State) : Out :=
  shiftRight 8 (place8 p dst s) 1 (Instr.shrRm8One p dst).length s

/-- SHR r/m v, 1 (R174). -/
def execShrRmvOne (p : Marks) (v : OpSize) (dst : Rmv) (s : State) : Out :=
  shiftRight v.bits (placeV p dst s) 1 (Instr.shrRmvOne p v dst).length s

/-- SHR r/m8, CL (R174). -/
def execShrRm8Cl (p : Marks) (dst : Rm8) (s : State) : Out :=
  shiftRight 8 (place8 p dst s) (countCl s) (Instr.shrRm8Cl p dst).length s

/-- SHR r/m v, CL (R174). -/
def execShrRmvCl (p : Marks) (v : OpSize) (dst : Rmv) (s : State) : Out :=
  shiftRight v.bits (placeV p dst s) (countCl s) (Instr.shrRmvCl p v dst).length s

/-- SHR r/m8, imm8 (R174). -/
def execShrRm8Imm8 (p : Marks) (dst : Rm8) (count : Byte) (s : State) : Out :=
  shiftRight 8 (place8 p dst s) (countImm count) (Instr.shrRm8Imm8 p dst count).length s

/-- SHR r/m v, imm8 (R174). -/
def execShrRmvImm8 (p : Marks) (v : OpSize) (dst : Rmv) (count : Byte) (s : State) : Out :=
  shiftRight v.bits (placeV p dst s) (countImm count) (Instr.shrRmvImm8 p v dst count).length s

/-- SAR r/m8, 1 (R175). -/
def execSarRm8One (p : Marks) (dst : Rm8) (s : State) : Out :=
  shiftArith 8 (place8 p dst s) 1 (Instr.sarRm8One p dst).length s

/-- SAR r/m v, 1 (R175). -/
def execSarRmvOne (p : Marks) (v : OpSize) (dst : Rmv) (s : State) : Out :=
  shiftArith v.bits (placeV p dst s) 1 (Instr.sarRmvOne p v dst).length s

/-- SAR r/m8, CL (R175). -/
def execSarRm8Cl (p : Marks) (dst : Rm8) (s : State) : Out :=
  shiftArith 8 (place8 p dst s) (countCl s) (Instr.sarRm8Cl p dst).length s

/-- SAR r/m v, CL (R175). -/
def execSarRmvCl (p : Marks) (v : OpSize) (dst : Rmv) (s : State) : Out :=
  shiftArith v.bits (placeV p dst s) (countCl s) (Instr.sarRmvCl p v dst).length s

/-- SAR r/m8, imm8 (R175). -/
def execSarRm8Imm8 (p : Marks) (dst : Rm8) (count : Byte) (s : State) : Out :=
  shiftArith 8 (place8 p dst s) (countImm count) (Instr.sarRm8Imm8 p dst count).length s

/-- SAR r/m v, imm8 (R175). -/
def execSarRmvImm8 (p : Marks) (v : OpSize) (dst : Rmv) (count : Byte) (s : State) : Out :=
  shiftArith v.bits (placeV p dst s) (countImm count) (Instr.sarRmvImm8 p v dst count).length s

end Sys2Proof.Machine
end

