-- ==== Sys2Proof/Machine/Rotate.lean ====
section
/-! DEFINITION. ROL, ROR, RCL, RCR (spec/45_rotate.md R200 to R207). -/

namespace Sys2Proof.Machine

/-- One place left: the high bit exits to CF and returns as bit 0 (R202). -/
def rolBit {w : Nat} (v : BitVec w) (_ : Bool) : BitVec w × Bool :=
  (v <<< 1 ||| (BitVec.ofBool v.msb).setWidth w, v.msb)

/-- One place right: bit 0 exits to CF and returns as the high bit (R203). -/
def rorBit {w : Nat} (v : BitVec w) (_ : Bool) : BitVec w × Bool :=
  (v >>> 1 ||| (BitVec.ofBool (v.getLsbD 0)).setWidth w <<< (w - 1), v.getLsbD 0)

/-- One place left through CF: CF enters at bit 0 and the high bit becomes CF (R204). -/
def rclBit {w : Nat} (v : BitVec w) (f : Bool) : BitVec w × Bool :=
  (v <<< 1 ||| (BitVec.ofBool f).setWidth w, v.msb)

/-- One place right through CF: CF enters at the top and bit 0 becomes CF (R205). -/
def rcrBit {w : Nat} (v : BitVec w) (f : Bool) : BitVec w × Bool :=
  (v >>> 1 ||| (BitVec.ofBool f).setWidth w <<< (w - 1), v.getLsbD 0)

/-- A rotate by the effective count `c`, one bit at a time with no reduction of `c` (R201, R207; log 21): nothing but EIP
changes when it is zero, though the operand is read; else the result is written, CF and OF follow R206 and the other
flags stay. One draw. -/
def rotate (w : Nat) (g : BitVec w → Bool → BitVec w × Bool) (dst : Place) (c len : Nat) (s : State) : Out :=
  if c = 0 then access dst w true false s (.next (s.finish s.flags 0 len))
  else
    access dst w true true s <|
      let v0 := dst.read w s
      let r := repeatBit g c v0 s.flags.cf
      .next ((dst.write r.1 s).finish (rotateFlags c v0 r.1 r.2 s) 1 len)

/-- ROL r/m8, 1 (R202). -/
def execRolRm8One (p : Marks) (dst : Rm8) (s : State) : Out :=
  rotate 8 rolBit (place8 p dst s) 1 (Instr.rolRm8One p dst).length s

/-- ROL r/m v, 1 (R202). -/
def execRolRmvOne (p : Marks) (v : OpSize) (dst : Rmv) (s : State) : Out :=
  rotate v.bits rolBit (placeV p dst s) 1 (Instr.rolRmvOne p v dst).length s

/-- ROL r/m8, CL (R202). -/
def execRolRm8Cl (p : Marks) (dst : Rm8) (s : State) : Out :=
  rotate 8 rolBit (place8 p dst s) (countCl s) (Instr.rolRm8Cl p dst).length s

/-- ROL r/m v, CL (R202). -/
def execRolRmvCl (p : Marks) (v : OpSize) (dst : Rmv) (s : State) : Out :=
  rotate v.bits rolBit (placeV p dst s) (countCl s) (Instr.rolRmvCl p v dst).length s

/-- ROL r/m8, imm8 (R202). -/
def execRolRm8Imm8 (p : Marks) (dst : Rm8) (count : Byte) (s : State) : Out :=
  rotate 8 rolBit (place8 p dst s) (countImm count) (Instr.rolRm8Imm8 p dst count).length s

/-- ROL r/m v, imm8 (R202). -/
def execRolRmvImm8 (p : Marks) (v : OpSize) (dst : Rmv) (count : Byte) (s : State) : Out :=
  rotate v.bits rolBit (placeV p dst s) (countImm count) (Instr.rolRmvImm8 p v dst count).length s

/-- ROR r/m8, 1 (R203). -/
def execRorRm8One (p : Marks) (dst : Rm8) (s : State) : Out :=
  rotate 8 rorBit (place8 p dst s) 1 (Instr.rorRm8One p dst).length s

/-- ROR r/m v, 1 (R203). -/
def execRorRmvOne (p : Marks) (v : OpSize) (dst : Rmv) (s : State) : Out :=
  rotate v.bits rorBit (placeV p dst s) 1 (Instr.rorRmvOne p v dst).length s

/-- ROR r/m8, CL (R203). -/
def execRorRm8Cl (p : Marks) (dst : Rm8) (s : State) : Out :=
  rotate 8 rorBit (place8 p dst s) (countCl s) (Instr.rorRm8Cl p dst).length s

/-- ROR r/m v, CL (R203). -/
def execRorRmvCl (p : Marks) (v : OpSize) (dst : Rmv) (s : State) : Out :=
  rotate v.bits rorBit (placeV p dst s) (countCl s) (Instr.rorRmvCl p v dst).length s

/-- ROR r/m8, imm8 (R203). -/
def execRorRm8Imm8 (p : Marks) (dst : Rm8) (count : Byte) (s : State) : Out :=
  rotate 8 rorBit (place8 p dst s) (countImm count) (Instr.rorRm8Imm8 p dst count).length s

/-- ROR r/m v, imm8 (R203). -/
def execRorRmvImm8 (p : Marks) (v : OpSize) (dst : Rmv) (count : Byte) (s : State) : Out :=
  rotate v.bits rorBit (placeV p dst s) (countImm count) (Instr.rorRmvImm8 p v dst count).length s

/-- RCL r/m8, 1 (R204). -/
def execRclRm8One (p : Marks) (dst : Rm8) (s : State) : Out :=
  rotate 8 rclBit (place8 p dst s) 1 (Instr.rclRm8One p dst).length s

/-- RCL r/m v, 1 (R204). -/
def execRclRmvOne (p : Marks) (v : OpSize) (dst : Rmv) (s : State) : Out :=
  rotate v.bits rclBit (placeV p dst s) 1 (Instr.rclRmvOne p v dst).length s

/-- RCL r/m8, CL (R204). -/
def execRclRm8Cl (p : Marks) (dst : Rm8) (s : State) : Out :=
  rotate 8 rclBit (place8 p dst s) (countCl s) (Instr.rclRm8Cl p dst).length s

/-- RCL r/m v, CL (R204). -/
def execRclRmvCl (p : Marks) (v : OpSize) (dst : Rmv) (s : State) : Out :=
  rotate v.bits rclBit (placeV p dst s) (countCl s) (Instr.rclRmvCl p v dst).length s

/-- RCL r/m8, imm8 (R204). -/
def execRclRm8Imm8 (p : Marks) (dst : Rm8) (count : Byte) (s : State) : Out :=
  rotate 8 rclBit (place8 p dst s) (countImm count) (Instr.rclRm8Imm8 p dst count).length s

/-- RCL r/m v, imm8 (R204). -/
def execRclRmvImm8 (p : Marks) (v : OpSize) (dst : Rmv) (count : Byte) (s : State) : Out :=
  rotate v.bits rclBit (placeV p dst s) (countImm count) (Instr.rclRmvImm8 p v dst count).length s

/-- RCR r/m8, 1 (R205). -/
def execRcrRm8One (p : Marks) (dst : Rm8) (s : State) : Out :=
  rotate 8 rcrBit (place8 p dst s) 1 (Instr.rcrRm8One p dst).length s

/-- RCR r/m v, 1 (R205). -/
def execRcrRmvOne (p : Marks) (v : OpSize) (dst : Rmv) (s : State) : Out :=
  rotate v.bits rcrBit (placeV p dst s) 1 (Instr.rcrRmvOne p v dst).length s

/-- RCR r/m8, CL (R205). -/
def execRcrRm8Cl (p : Marks) (dst : Rm8) (s : State) : Out :=
  rotate 8 rcrBit (place8 p dst s) (countCl s) (Instr.rcrRm8Cl p dst).length s

/-- RCR r/m v, CL (R205). -/
def execRcrRmvCl (p : Marks) (v : OpSize) (dst : Rmv) (s : State) : Out :=
  rotate v.bits rcrBit (placeV p dst s) (countCl s) (Instr.rcrRmvCl p v dst).length s

/-- RCR r/m8, imm8 (R205). -/
def execRcrRm8Imm8 (p : Marks) (dst : Rm8) (count : Byte) (s : State) : Out :=
  rotate 8 rcrBit (place8 p dst s) (countImm count) (Instr.rcrRm8Imm8 p dst count).length s

/-- RCR r/m v, imm8 (R205). -/
def execRcrRmvImm8 (p : Marks) (v : OpSize) (dst : Rmv) (count : Byte) (s : State) : Out :=
  rotate v.bits rcrBit (placeV p dst s) (countImm count) (Instr.rcrRmvImm8 p v dst count).length s

end Sys2Proof.Machine
end

