-- ==== Sys2Proof/Machine/SetCc.lean ====
section
/-! DEFINITION. The sixteen SETcc instructions (spec/46_setcc_and_referenced.md R220 to R222). -/

namespace Sys2Proof.Machine

/-- The byte 1 or 0 by condition `cc` of the flags before; the operand is written, not read, and no flag changes (R221). -/
def setByte (cc : Nat) (dst : Place) (len : Nat) (s : State) : Out :=
  access dst 8 false true s <|
    .next ((dst.write (if cond cc s.flags then 1#8 else 0#8) s).finish s.flags 0 len)

/-- SETO r/m8 (R221). -/
def execSeto (p : Marks) (dst : Rm8) (s : State) : Out :=
  setByte 0 (place8 p dst s) (Instr.seto p dst).length s

/-- SETNO r/m8 (R221). -/
def execSetno (p : Marks) (dst : Rm8) (s : State) : Out :=
  setByte 1 (place8 p dst s) (Instr.setno p dst).length s

/-- SETC r/m8 (R221). -/
def execSetc (p : Marks) (dst : Rm8) (s : State) : Out :=
  setByte 2 (place8 p dst s) (Instr.setc p dst).length s

/-- SETNC r/m8 (R221). -/
def execSetnc (p : Marks) (dst : Rm8) (s : State) : Out :=
  setByte 3 (place8 p dst s) (Instr.setnc p dst).length s

/-- SETE r/m8 (R221). -/
def execSete (p : Marks) (dst : Rm8) (s : State) : Out :=
  setByte 4 (place8 p dst s) (Instr.sete p dst).length s

/-- SETNE r/m8 (R221). -/
def execSetne (p : Marks) (dst : Rm8) (s : State) : Out :=
  setByte 5 (place8 p dst s) (Instr.setne p dst).length s

/-- SETBE r/m8 (R221). -/
def execSetbe (p : Marks) (dst : Rm8) (s : State) : Out :=
  setByte 6 (place8 p dst s) (Instr.setbe p dst).length s

/-- SETNBE r/m8 (R221). -/
def execSetnbe (p : Marks) (dst : Rm8) (s : State) : Out :=
  setByte 7 (place8 p dst s) (Instr.setnbe p dst).length s

/-- SETS r/m8 (R221). -/
def execSets (p : Marks) (dst : Rm8) (s : State) : Out :=
  setByte 8 (place8 p dst s) (Instr.sets p dst).length s

/-- SETNS r/m8 (R221). -/
def execSetns (p : Marks) (dst : Rm8) (s : State) : Out :=
  setByte 9 (place8 p dst s) (Instr.setns p dst).length s

/-- SETP r/m8 (R221). -/
def execSetp (p : Marks) (dst : Rm8) (s : State) : Out :=
  setByte 10 (place8 p dst s) (Instr.setp p dst).length s

/-- SETNP r/m8 (R221). -/
def execSetnp (p : Marks) (dst : Rm8) (s : State) : Out :=
  setByte 11 (place8 p dst s) (Instr.setnp p dst).length s

/-- SETL r/m8 (R221). -/
def execSetl (p : Marks) (dst : Rm8) (s : State) : Out :=
  setByte 12 (place8 p dst s) (Instr.setl p dst).length s

/-- SETNL r/m8 (R221). -/
def execSetnl (p : Marks) (dst : Rm8) (s : State) : Out :=
  setByte 13 (place8 p dst s) (Instr.setnl p dst).length s

/-- SETLE r/m8 (R221). -/
def execSetle (p : Marks) (dst : Rm8) (s : State) : Out :=
  setByte 14 (place8 p dst s) (Instr.setle p dst).length s

/-- SETNLE r/m8 (R221). -/
def execSetnle (p : Marks) (dst : Rm8) (s : State) : Out :=
  setByte 15 (place8 p dst s) (Instr.setnle p dst).length s

end Sys2Proof.Machine
end

