-- ==== Sys2Proof/Machine/Dispatch.lean ====
section
/-! DEFINITION. One arm per constructor of Instr: each calls its meaning. -/

namespace Sys2Proof.Machine

def exec (i : Instr) (s : State) : Host.Outcome State Fault Refusal :=
  match i with
  | .orRm8R8 p dst src => Sys2Proof.Machine.execOrRm8R8 p dst src s
  | .orRmvRv p v dst src => Sys2Proof.Machine.execOrRmvRv p v dst src s
  | .orR8Rm8 p dst src => Sys2Proof.Machine.execOrR8Rm8 p dst src s
  | .orRvRmv p v dst src => Sys2Proof.Machine.execOrRvRmv p v dst src s
  | .orAlImm8 p imm => Sys2Proof.Machine.execOrAlImm8 p imm s
  | .orEaxImmv p imm => Sys2Proof.Machine.execOrEaxImmv p imm s
  | .orRm8Imm8 p dst imm => Sys2Proof.Machine.execOrRm8Imm8 p dst imm s
  | .orRmvImmv p dst imm => Sys2Proof.Machine.execOrRmvImmv p dst imm s
  | .orRmvImm8sx p v dst imm => Sys2Proof.Machine.execOrRmvImm8sx p v dst imm s
  | .andRm8R8 p dst src => Sys2Proof.Machine.execAndRm8R8 p dst src s
  | .andRmvRv p v dst src => Sys2Proof.Machine.execAndRmvRv p v dst src s
  | .andR8Rm8 p dst src => Sys2Proof.Machine.execAndR8Rm8 p dst src s
  | .andRvRmv p v dst src => Sys2Proof.Machine.execAndRvRmv p v dst src s
  | .andAlImm8 p imm => Sys2Proof.Machine.execAndAlImm8 p imm s
  | .andEaxImmv p imm => Sys2Proof.Machine.execAndEaxImmv p imm s
  | .andRm8Imm8 p dst imm => Sys2Proof.Machine.execAndRm8Imm8 p dst imm s
  | .andRmvImmv p dst imm => Sys2Proof.Machine.execAndRmvImmv p dst imm s
  | .andRmvImm8sx p v dst imm => Sys2Proof.Machine.execAndRmvImm8sx p v dst imm s
  | .xorRm8R8 p dst src => Sys2Proof.Machine.execXorRm8R8 p dst src s
  | .xorRmvRv p v dst src => Sys2Proof.Machine.execXorRmvRv p v dst src s
  | .xorR8Rm8 p dst src => Sys2Proof.Machine.execXorR8Rm8 p dst src s
  | .xorRvRmv p v dst src => Sys2Proof.Machine.execXorRvRmv p v dst src s
  | .xorAlImm8 p imm => Sys2Proof.Machine.execXorAlImm8 p imm s
  | .xorEaxImmv p imm => Sys2Proof.Machine.execXorEaxImmv p imm s
  | .xorRm8Imm8 p dst imm => Sys2Proof.Machine.execXorRm8Imm8 p dst imm s
  | .xorRmvImmv p dst imm => Sys2Proof.Machine.execXorRmvImmv p dst imm s
  | .xorRmvImm8sx p v dst imm => Sys2Proof.Machine.execXorRmvImm8sx p v dst imm s
  | .notRm8 p dst => Sys2Proof.Machine.execNotRm8 p dst s
  | .notRmv p v dst => Sys2Proof.Machine.execNotRmv p v dst s
  | .btRmvRv p v base off => Sys2Proof.Machine.execBtRmvRv p v base off s
  | .btRmvImm8 p v base off => Sys2Proof.Machine.execBtRmvImm8 p v base off s
  | .btsRmvRv p v base off => Sys2Proof.Machine.execBtsRmvRv p v base off s
  | .btsRmvImm8 p v base off => Sys2Proof.Machine.execBtsRmvImm8 p v base off s
  | .btrRmvRv p v base off => Sys2Proof.Machine.execBtrRmvRv p v base off s
  | .btrRmvImm8 p v base off => Sys2Proof.Machine.execBtrRmvImm8 p v base off s
  | .btcRmvRv p v base off => Sys2Proof.Machine.execBtcRmvRv p v base off s
  | .btcRmvImm8 p v base off => Sys2Proof.Machine.execBtcRmvImm8 p v base off s
  | .bsfRvRmv p v dst src => Sys2Proof.Machine.execBsfRvRmv p v dst src s
  | .bsrRvRmv p v dst src => Sys2Proof.Machine.execBsrRvRmv p v dst src s
  | .rolRm8One p dst => Sys2Proof.Machine.execRolRm8One p dst s
  | .rolRmvOne p v dst => Sys2Proof.Machine.execRolRmvOne p v dst s
  | .rolRm8Cl p dst => Sys2Proof.Machine.execRolRm8Cl p dst s
  | .rolRmvCl p v dst => Sys2Proof.Machine.execRolRmvCl p v dst s
  | .rolRm8Imm8 p dst count => Sys2Proof.Machine.execRolRm8Imm8 p dst count s
  | .rolRmvImm8 p v dst count => Sys2Proof.Machine.execRolRmvImm8 p v dst count s
  | .rorRm8One p dst => Sys2Proof.Machine.execRorRm8One p dst s
  | .rorRmvOne p v dst => Sys2Proof.Machine.execRorRmvOne p v dst s
  | .rorRm8Cl p dst => Sys2Proof.Machine.execRorRm8Cl p dst s
  | .rorRmvCl p v dst => Sys2Proof.Machine.execRorRmvCl p v dst s
  | .rorRm8Imm8 p dst count => Sys2Proof.Machine.execRorRm8Imm8 p dst count s
  | .rorRmvImm8 p v dst count => Sys2Proof.Machine.execRorRmvImm8 p v dst count s
  | .rclRm8One p dst => Sys2Proof.Machine.execRclRm8One p dst s
  | .rclRmvOne p v dst => Sys2Proof.Machine.execRclRmvOne p v dst s
  | .rclRm8Cl p dst => Sys2Proof.Machine.execRclRm8Cl p dst s
  | .rclRmvCl p v dst => Sys2Proof.Machine.execRclRmvCl p v dst s
  | .rclRm8Imm8 p dst count => Sys2Proof.Machine.execRclRm8Imm8 p dst count s
  | .rclRmvImm8 p v dst count => Sys2Proof.Machine.execRclRmvImm8 p v dst count s
  | .rcrRm8One p dst => Sys2Proof.Machine.execRcrRm8One p dst s
  | .rcrRmvOne p v dst => Sys2Proof.Machine.execRcrRmvOne p v dst s
  | .rcrRm8Cl p dst => Sys2Proof.Machine.execRcrRm8Cl p dst s
  | .rcrRmvCl p v dst => Sys2Proof.Machine.execRcrRmvCl p v dst s
  | .rcrRm8Imm8 p dst count => Sys2Proof.Machine.execRcrRm8Imm8 p dst count s
  | .rcrRmvImm8 p v dst count => Sys2Proof.Machine.execRcrRmvImm8 p v dst count s
  | .shlRm8One p dst => Sys2Proof.Machine.execShlRm8One p dst s
  | .shlRmvOne p v dst => Sys2Proof.Machine.execShlRmvOne p v dst s
  | .shlRm8Cl p dst => Sys2Proof.Machine.execShlRm8Cl p dst s
  | .shlRmvCl p v dst => Sys2Proof.Machine.execShlRmvCl p v dst s
  | .shlRm8Imm8 p dst count => Sys2Proof.Machine.execShlRm8Imm8 p dst count s
  | .shlRmvImm8 p v dst count => Sys2Proof.Machine.execShlRmvImm8 p v dst count s
  | .shrRm8One p dst => Sys2Proof.Machine.execShrRm8One p dst s
  | .shrRmvOne p v dst => Sys2Proof.Machine.execShrRmvOne p v dst s
  | .shrRm8Cl p dst => Sys2Proof.Machine.execShrRm8Cl p dst s
  | .shrRmvCl p v dst => Sys2Proof.Machine.execShrRmvCl p v dst s
  | .shrRm8Imm8 p dst count => Sys2Proof.Machine.execShrRm8Imm8 p dst count s
  | .shrRmvImm8 p v dst count => Sys2Proof.Machine.execShrRmvImm8 p v dst count s
  | .sarRm8One p dst => Sys2Proof.Machine.execSarRm8One p dst s
  | .sarRmvOne p v dst => Sys2Proof.Machine.execSarRmvOne p v dst s
  | .sarRm8Cl p dst => Sys2Proof.Machine.execSarRm8Cl p dst s
  | .sarRmvCl p v dst => Sys2Proof.Machine.execSarRmvCl p v dst s
  | .sarRm8Imm8 p dst count => Sys2Proof.Machine.execSarRm8Imm8 p dst count s
  | .sarRmvImm8 p v dst count => Sys2Proof.Machine.execSarRmvImm8 p v dst count s
  | .shldRmvRvImm8 p v dst src count => Sys2Proof.Machine.execShldRmvRvImm8 p v dst src count s
  | .shldRmvRvCl p v dst src => Sys2Proof.Machine.execShldRmvRvCl p v dst src s
  | .shrdRmvRvImm8 p v dst src count => Sys2Proof.Machine.execShrdRmvRvImm8 p v dst src count s
  | .shrdRmvRvCl p v dst src => Sys2Proof.Machine.execShrdRmvRvCl p v dst src s
  | .seto p dst => Sys2Proof.Machine.execSeto p dst s
  | .setno p dst => Sys2Proof.Machine.execSetno p dst s
  | .setc p dst => Sys2Proof.Machine.execSetc p dst s
  | .setnc p dst => Sys2Proof.Machine.execSetnc p dst s
  | .sete p dst => Sys2Proof.Machine.execSete p dst s
  | .setne p dst => Sys2Proof.Machine.execSetne p dst s
  | .setbe p dst => Sys2Proof.Machine.execSetbe p dst s
  | .setnbe p dst => Sys2Proof.Machine.execSetnbe p dst s
  | .sets p dst => Sys2Proof.Machine.execSets p dst s
  | .setns p dst => Sys2Proof.Machine.execSetns p dst s
  | .setp p dst => Sys2Proof.Machine.execSetp p dst s
  | .setnp p dst => Sys2Proof.Machine.execSetnp p dst s
  | .setl p dst => Sys2Proof.Machine.execSetl p dst s
  | .setnl p dst => Sys2Proof.Machine.execSetnl p dst s
  | .setle p dst => Sys2Proof.Machine.execSetle p dst s
  | .setnle p dst => Sys2Proof.Machine.execSetnle p dst s
  | .jcRel8 p v rel => Sys2Proof.Machine.execJcRel8 p v rel s
  | .jcRelv p rel => Sys2Proof.Machine.execJcRelv p rel s
  | .jncRel8 p v rel => Sys2Proof.Machine.execJncRel8 p v rel s
  | .jncRelv p rel => Sys2Proof.Machine.execJncRelv p rel s
  | .idivRm8 p src => Sys2Proof.Machine.execIdivRm8 p src s
  | .idivRmv p v src => Sys2Proof.Machine.execIdivRmv p v src s

end Sys2Proof.Machine
end

