-- ==== Sys2Proof/Machine/Fetch.lean ====
section
/-! DEFINITION. Fetching an instruction, the program text and its instruction starts, and loading a program from outside
(spec/20_memory.md R51, R63, 60_exceptions.md R246, 70_reset_and_hazards.md R272 to R276). -/

namespace Sys2Proof.Machine

/-- The linear address of a byte of code: EIP is an offset under CS (DEDUCED, log 9). -/
def State.codeAddr (s : State) (off : Dword) : Dword := s.linear .cs off

/-- At most `n` bytes of the program text from `off` on, one at a time in rising address order, as far as fetches are
admitted (20_memory.md R51). -/
def State.codeBytes (s : State) : Nat → Dword → List Byte
  | 0, _ => []
  | n + 1, off =>
    if s.inText off && s.admits (s.codeAddr off) 1 .fetch then
      s.byteAt (s.codeAddr off) :: State.codeBytes s n (off + 1)
    else []

/-- What stops a fetch whose bytes ended inside the instruction after `k` of them: the next byte's fetch is not admitted
(60_exceptions.md R242), or the text ends there (70_reset_and_hazards.md R276; log 12). -/
def fetchEnd (s : State) (k : Nat) : Host.Outcome Instr Fault Refusal :=
  if k = maxLength then .refused .tooLong
  else if s.inText (s.eip + BitVec.ofNat 32 k) then
    .fault (.memFault (s.codeAddr (s.eip + BitVec.ofNat 32 k)) 1 .fetch)
  else .refused .pastText

/-- The instruction at EIP (60_exceptions.md R246): the fault on a fetch, then the refusal or InvalidOpcode. Bytes that are
no row have no length in the spec; how many of them are fetched before the refusal, and so which of the two stops comes
first, is the model's choice (DESIGN CHOICE, log 25): those that `takeParts` and the row's `reg` field need. -/
def fetch (s : State) : Host.Outcome Instr Fault Refusal :=
  match decode s.params.sizes (s.codeBytes maxLength s.eip) with
  | .ok (i, _) => .next i
  | .error .truncated => fetchEnd s (s.codeBytes maxLength s.eip).length
  | .error .lockNotAccepted => .fault (.invalidOpcode s.eip)
  | .error e => .refused (.encoding e)

/-- The instruction whose first byte is at `off` in the program text, LOCK fitting or not. -/
def State.instrAt (s : State) (off : Dword) : Option Instr :=
  match decodeRaw s.params.sizes (s.codeBytes maxLength off) with
  | .ok (i, _) => some i
  | .error _ => none

/-- Decoding instruction after instruction from `at0` on comes to `target` (70_reset_and_hazards.md R276); `n` bounds the
number of instructions. -/
def State.sweep (s : State) : Nat → Dword → Dword → Bool
  | 0, _, _ => false
  | n + 1, at0, target =>
    if at0 = target then true
    else
      match s.instrAt at0 with
      | none => false
      | some i => State.sweep s n (at0 + BitVec.ofNat 32 i.length) target

/-- `off` is the start of an instruction of the program as decoded from TEXT_BASE (70_reset_and_hazards.md R276). -/
def State.isStart (s : State) (off : Dword) : Bool :=
  s.sweep (s.params.endAddr.toNat - s.params.textBase.toNat) s.params.textBase off

/-- What the step makes of the state `t` that the instruction `i` at `s` leads to: END_ADDR ends the run, any other EIP
outside the text, or one inside it that neither follows the instruction nor is an instruction's start, is refused
(70_reset_and_hazards.md R276; log 12). -/
def settle (i : Instr) (s t : State) : Out :=
  if t.eip = t.params.endAddr then .next t
  else if !t.inText t.eip then .refused (.outsideText t.eip)
  else if t.eip = s.eip + BitVec.ofNat 32 i.length then .next t
  else if t.isStart t.eip then .next t
  else .refused (.midInstruction t.eip)

/-! ### Loading a program from outside (70_reset_and_hazards.md R272, R273; log 11) -/

/-- Bytes put at an offset under CS and the following ones. -/
def State.placeCode (s : State) : List Byte → Dword → Memory
  | [], _ => s.mem
  | b :: bs, off => Memory.set (State.placeCode s bs (off + 1)) (s.codeAddr off).toNat b

/-- The state with `code` stored at EIP as the program, the first `len` bytes being its text, admitted for fetch. -/
def State.load (s : State) (code : List Byte) (len : Nat) : State :=
  { s with
    mem := s.placeCode code s.eip
    params := { s.params with
      textBase := s.eip
      endAddr := s.eip + BitVec.ofNat 32 len
      grants := ⟨s.codeAddr s.eip, code.length, [1], [.fetch]⟩ :: s.params.grants } }

/-- The length of the instruction at the head of the bytes, all of them if there is none. -/
def codeLength (z : Sizes) (code : List Byte) : Nat :=
  match decodeRaw z code with
  | .ok (i, _) => i.length
  | .error _ => code.length

end Sys2Proof.Machine
end

