-- ==== Sys2Proof/Machine/Step.lean ====
section
/-! DEFINITION. One step of the machine (spec/60_exceptions.md R241, R246, 70_reset_and_hazards.md R276). -/

namespace Sys2Proof.Machine

/-- One step. At END_ADDR the run is over; outside the text it is refused; else the instruction at EIP runs and what it
leads to is settled. -/
def step (s : State) : Host.Outcome State Fault Refusal :=
  if s.eip = s.params.endAddr then .refused .endOfRun
  else if !s.inText s.eip then .refused (.outsideText s.eip)
  else
    match fetch s with
    | .fault f => .fault f
    | .refused r => .refused r
    | .next i =>
      match exec i s with
      | .fault f => .fault f
      | .refused r => .refused r
      | .next t => settle i s t

/-- The state with one instruction loaded as the program at EIP (log 11): the table word's bytes and zeros after them up
to the longest instruction, the text being that one instruction. -/
def State.withFetchWord (s : State) (nbits w : Nat) : State :=
  s.load (tableBytes nbits w) (codeLength s.params.sizes (tableBytes nbits w))

end Sys2Proof.Machine
end

