-- ==== Sys2Proof/Safety.lean ====
section
/-! DEFINITION. What counts as a safe state and a safe run, and the words the statements use for what an instruction
changes. -/

namespace Sys2Proof.Machine

/-! ### Good states and safe runs -/

/-- EIP is END_ADDR, or the start of an instruction of the program as decoded from TEXT_BASE
(70_reset_and_hazards.md R273, R276). -/
def State.atBoundary (s : State) : Bool :=
  decide (s.eip = s.params.endAddr) || (s.inText s.eip && s.isStart s.eip)

/-- The invariant: memory is in canonical form and EIP is at an instruction boundary of the program. -/
def State.good (s : State) : Bool :=
  Memory.wf s.mem && s.atBoundary

/-- The byte of code at an offset under CS. -/
def State.codeByte (s : State) (off : Dword) : Byte := s.byteAt (s.codeAddr off)

/-- The run is over (70_reset_and_hazards.md R276). -/
def State.final (s : State) : Bool := decide (s.eip = s.params.endAddr)

/-- `k` steps from `s` neither fault nor are refused. -/
def safeFor (k : Nat) (s : State) : Prop :=
  ∃ t, Host.Core.run Sys2Proof.core k s = .next t

/-! ### What an instruction changes -/

/-- The byte at linear address `b` belongs to the `w`-bit operand at `x`. -/
def Place.covers (x : Place) (w : Nat) (b : Dword) : Prop :=
  match x with
  | .mem a => (b - a).toNat < w / 8
  | _ => False

/-- Bit `j` of register `q` belongs to the `w`-bit operand at `x`. -/
def Place.coversBit (x : Place) (w : Nat) (q : Reg) (j : Nat) : Prop :=
  match x with
  | .mem _ => False
  | .reg r => q = r ∧ j < w
  | .byteReg r => q = Reg8.whole r ∧ Reg8.low r ≤ j ∧ j < Reg8.low r + 8

/-- From `s` to `t` the `w`-bit operand at `x` comes to hold `v`, and every other byte of memory and every other bit of
every register stays (10_state.md R23, 20_memory.md R51). -/
def WritesOnly (x : Place) {w : Nat} (v : BitVec w) (s t : State) : Prop :=
  x.read w t = v ∧ (∀ b, ¬ x.covers w b → t.byteAt b = s.byteAt b) ∧
    ∀ q j, ¬ x.coversBit w q j → (t.regs.get q).getLsbD j = (s.regs.get q).getLsbD j

/-- Registers and memory are the same. -/
def SameData (s t : State) : Prop := t.regs = s.regs ∧ t.mem = s.mem

/-- EIP moves past the instruction, modulo 2^32, and the parameters stay (10_state.md R25, R33). -/
def Advances (i : Instr) (s t : State) : Prop :=
  t.eip = s.eip + BitVec.ofNat 32 i.length ∧ t.params = s.params

/-- SF, ZF and PF are those of the result `r` (10_state.md R26). -/
def HasSzp {w : Nat} (r : BitVec w) (f : Flags) : Prop :=
  f.sf = r.getLsbD (w - 1) ∧ (f.zf = true ↔ r = 0) ∧
    (f.pf = true ↔ ((List.range 8).countP fun k => r.getLsbD k) % 2 = 0)

/-- The bit is one of the values drawn by the instruction that led from `s` to `t`: a value no earlier instruction drew,
and one that nothing proved can depend on (00_scope.md R12; log 7). -/
def Drawn (b : Bool) (s t : State) : Prop :=
  ∃ k, s.draws ≤ k ∧ k < t.draws ∧ b = Config.undefBit k

/-- The bits are values drawn by the instruction that led from `s` to `t`, each a draw of its own: no two of them are the
same draw (00_scope.md R12; log 7). -/
def DrawnApart (bs : List Bool) (s t : State) : Prop :=
  ∃ ks : List Nat, ks.Nodup ∧ (∀ k ∈ ks, s.draws ≤ k ∧ k < t.draws) ∧ bs = ks.map Config.undefBit

/-- The word and the bits are values drawn by the instruction that led from `s` to `t`, each a draw of its own
(00_scope.md R12; log 7). -/
def DrawnWordApart {w : Nat} (v : BitVec w) (bs : List Bool) (s t : State) : Prop :=
  ∃ (k : Nat) (ks : List Nat), (k :: ks).Nodup ∧ (∀ j ∈ k :: ks, s.draws ≤ j ∧ j < t.draws) ∧
    v = (Config.undefWord k).setWidth w ∧ bs = ks.map Config.undefBit

/-- The one operand of an instruction that may be in memory: where it is, its width, and whether the instruction reads
and writes it (20_memory.md R53). -/
structure Use where
  place : Place
  w : Nat
  rd : Bool
  wr : Bool

/-- Both accesses are admitted, and the write does not touch the program text (20_memory.md R51, R63, R65). -/
def Use.ready (u : Use) (s : State) : Prop :=
  (u.rd = true → u.place.readable u.w s = true) ∧ (u.wr = true → u.place.writable u.w s = true)

/-- The instruction raises MemFault on a read, or else a write, that is not admitted; a write into the program text is
another matter (20_memory.md R51, R65, 60_exceptions.md R243). -/
def MemFaults (i : Instr) (s : State) (u : Use) : Prop :=
  ∀ a, u.place = .mem a → (u.wr = true → s.hitsText a (u.w / 8) = false) →
    (u.rd = true → s.admits a (u.w / 8) .read = false →
      exec i s = .fault (.memFault a (u.w / 8) .read)) ∧
    (u.wr = true → (u.rd = true → s.admits a (u.w / 8) .read = true) → s.admits a (u.w / 8) .write = false →
      exec i s = .fault (.memFault a (u.w / 8) .write))

end Sys2Proof.Machine
end

