-- ==== Sys2Proof/Certificates/Slice0/Obligations.lean ====
section
/-! DEFINITION. The statements for the provers: def Obligations.<Name> : Prop. Before them, the views that say of each
constructor what operands and which operation it stands for, so that one statement can speak of every form. -/

namespace Sys2Proof.Claims

open Sys2Proof.Machine

/-! ### Views of the instructions -/

/-- AND, OR and XOR. -/
inductive LogicOp where
  | and
  | or
  | xor
deriving DecidableEq, Repr

/-- The operation bit by bit: "and", "(inclusive) or", "exclusive or" (40_boolean.md R121 to R123). -/
def LogicOp.bit : LogicOp → Bool → Bool → Bool
  | .and, a, b => a && b
  | .or, a, b => a || b
  | .xor, a, b => a != b

/-- A form of AND, OR or XOR: its operation, its width, its destination, the value of its source, and the operand that
may be in memory. -/
structure LogicView where
  op : LogicOp
  w : Nat
  dst : Place
  src : BitVec w
  use : Use

/-- The 27 forms of AND, OR and XOR (40_boolean.md R124). -/
def logicView : Instr → State → Option LogicView
  | .orRm8R8 p dst src, s => some ⟨.or, 8, place8 p dst s, s.regs.get8 src, ⟨place8 p dst s, 8, true, true⟩⟩
  | .orRmvRv p v dst src, s =>
      some ⟨.or, v.bits, placeV p dst s, s.regs.getW v.bits src, ⟨placeV p dst s, v.bits, true, true⟩⟩
  | .orR8Rm8 p dst src, s => some ⟨.or, 8, .byteReg dst, (place8 p src s).read 8 s, ⟨place8 p src s, 8, true, false⟩⟩
  | .orRvRmv p v dst src, s =>
      some ⟨.or, v.bits, .reg dst, (placeV p src s).read v.bits s, ⟨placeV p src s, v.bits, true, false⟩⟩
  | .orAlImm8 _ imm, _ => some ⟨.or, 8, .byteReg .al, imm, ⟨.byteReg .al, 8, true, true⟩⟩
  | .orEaxImmv _ imm, _ => some ⟨.or, imm.size.bits, .reg .eax, imm.value, ⟨.reg .eax, imm.size.bits, true, true⟩⟩
  | .orRm8Imm8 p dst imm, s => some ⟨.or, 8, place8 p dst s, imm, ⟨place8 p dst s, 8, true, true⟩⟩
  | .orRmvImmv p dst imm, s =>
      some ⟨.or, imm.size.bits, placeV p dst s, imm.value, ⟨placeV p dst s, imm.size.bits, true, true⟩⟩
  | .orRmvImm8sx p v dst imm, s =>
      some ⟨.or, v.bits, placeV p dst s, imm.signExtend v.bits, ⟨placeV p dst s, v.bits, true, true⟩⟩
  | .andRm8R8 p dst src, s => some ⟨.and, 8, place8 p dst s, s.regs.get8 src, ⟨place8 p dst s, 8, true, true⟩⟩
  | .andRmvRv p v dst src, s =>
      some ⟨.and, v.bits, placeV p dst s, s.regs.getW v.bits src, ⟨placeV p dst s, v.bits, true, true⟩⟩
  | .andR8Rm8 p dst src, s => some ⟨.and, 8, .byteReg dst, (place8 p src s).read 8 s, ⟨place8 p src s, 8, true, false⟩⟩
  | .andRvRmv p v dst src, s =>
      some ⟨.and, v.bits, .reg dst, (placeV p src s).read v.bits s, ⟨placeV p src s, v.bits, true, false⟩⟩
  | .andAlImm8 _ imm, _ => some ⟨.and, 8, .byteReg .al, imm, ⟨.byteReg .al, 8, true, true⟩⟩
  | .andEaxImmv _ imm, _ => some ⟨.and, imm.size.bits, .reg .eax, imm.value, ⟨.reg .eax, imm.size.bits, true, true⟩⟩
  | .andRm8Imm8 p dst imm, s => some ⟨.and, 8, place8 p dst s, imm, ⟨place8 p dst s, 8, true, true⟩⟩
  | .andRmvImmv p dst imm, s =>
      some ⟨.and, imm.size.bits, placeV p dst s, imm.value, ⟨placeV p dst s, imm.size.bits, true, true⟩⟩
  | .andRmvImm8sx p v dst imm, s =>
      some ⟨.and, v.bits, placeV p dst s, imm.signExtend v.bits, ⟨placeV p dst s, v.bits, true, true⟩⟩
  | .xorRm8R8 p dst src, s => some ⟨.xor, 8, place8 p dst s, s.regs.get8 src, ⟨place8 p dst s, 8, true, true⟩⟩
  | .xorRmvRv p v dst src, s =>
      some ⟨.xor, v.bits, placeV p dst s, s.regs.getW v.bits src, ⟨placeV p dst s, v.bits, true, true⟩⟩
  | .xorR8Rm8 p dst src, s => some ⟨.xor, 8, .byteReg dst, (place8 p src s).read 8 s, ⟨place8 p src s, 8, true, false⟩⟩
  | .xorRvRmv p v dst src, s =>
      some ⟨.xor, v.bits, .reg dst, (placeV p src s).read v.bits s, ⟨placeV p src s, v.bits, true, false⟩⟩
  | .xorAlImm8 _ imm, _ => some ⟨.xor, 8, .byteReg .al, imm, ⟨.byteReg .al, 8, true, true⟩⟩
  | .xorEaxImmv _ imm, _ => some ⟨.xor, imm.size.bits, .reg .eax, imm.value, ⟨.reg .eax, imm.size.bits, true, true⟩⟩
  | .xorRm8Imm8 p dst imm, s => some ⟨.xor, 8, place8 p dst s, imm, ⟨place8 p dst s, 8, true, true⟩⟩
  | .xorRmvImmv p dst imm, s =>
      some ⟨.xor, imm.size.bits, placeV p dst s, imm.value, ⟨placeV p dst s, imm.size.bits, true, true⟩⟩
  | .xorRmvImm8sx p v dst imm, s =>
      some ⟨.xor, v.bits, placeV p dst s, imm.signExtend v.bits, ⟨placeV p dst s, v.bits, true, true⟩⟩
  | _, _ => none

/-- The two forms of NOT (40_boolean.md R125). -/
def notView : Instr → State → Option Use
  | .notRm8 p dst, s => some ⟨place8 p dst s, 8, true, true⟩
  | .notRmv p v dst, s => some ⟨placeV p dst s, v.bits, true, true⟩
  | _, _ => none

/-- BT, BTS, BTR and BTC. -/
inductive BitOp where
  | test
  | set
  | reset
  | complement
deriving DecidableEq, Repr

/-- The new value of the selected bit (41_bit_test.md, Table 3-1). -/
def BitOp.new : BitOp → Bool → Bool
  | .test, b => b
  | .set, _ => true
  | .reset, _ => false
  | .complement, b => !b

/-- BT writes nothing; the others write their unit. -/
def BitOp.writes : BitOp → Bool
  | .test => false
  | _ => true

/-- A form of a bit test: its operation, width, base, and its offset: the value of a register, or an immediate byte. -/
structure BitView where
  op : BitOp
  w : Nat
  base : Place
  off : BitVec w ⊕ Byte

/-- The eight forms of the bit tests (41_bit_test.md R141). -/
def bitView : Instr → State → Option BitView
  | .btRmvRv p v base off, s => some ⟨.test, v.bits, placeV p base s, .inl (s.regs.getW v.bits off)⟩
  | .btRmvImm8 p v base off, s => some ⟨.test, v.bits, placeV p base s, .inr off⟩
  | .btsRmvRv p v base off, s => some ⟨.set, v.bits, placeV p base s, .inl (s.regs.getW v.bits off)⟩
  | .btsRmvImm8 p v base off, s => some ⟨.set, v.bits, placeV p base s, .inr off⟩
  | .btrRmvRv p v base off, s => some ⟨.reset, v.bits, placeV p base s, .inl (s.regs.getW v.bits off)⟩
  | .btrRmvImm8 p v base off, s => some ⟨.reset, v.bits, placeV p base s, .inr off⟩
  | .btcRmvRv p v base off, s => some ⟨.complement, v.bits, placeV p base s, .inl (s.regs.getW v.bits off)⟩
  | .btcRmvImm8 p v base off, s => some ⟨.complement, v.bits, placeV p base s, .inr off⟩
  | _, _ => none

/-- The offset as a number: signed in a register, unsigned in an immediate byte. -/
def BitView.offset (b : BitView) : Int :=
  match b.off with
  | .inl x => x.toInt
  | .inr x => x.toNat

/-- The selected bit's number in its unit: the offset modulo the width (41_bit_test.md R142, R143). -/
def BitView.index (b : BitView) : Nat := (b.offset % b.w).toNat

/-- The unit that holds the selected bit: the operand itself, but with a memory base and an offset in a register the
unit `floor(offset / w)` units further on (41_bit_test.md R142, R143). -/
def BitView.unit (b : BitView) : Place :=
  match b.base, b.off with
  | .mem a, .inl x => .mem (a + BitVec.ofInt 32 (b.w / 8 * (x.toInt / b.w)))
  | x, _ => x

/-- BT reads its unit; the others read and write it (20_memory.md R53). -/
def BitView.use (b : BitView) : Use := ⟨b.unit, b.w, true, b.op.writes⟩

/-- A bit scan: whether it scans from the top, its width, its destination register, its source. -/
structure ScanView where
  fromTop : Bool
  w : Nat
  dst : Reg
  src : Place

/-- BSF and BSR (42_bit_scan.md R160). -/
def scanView : Instr → State → Option ScanView
  | .bsfRvRmv p v dst src, s => some ⟨false, v.bits, dst, placeV p src s⟩
  | .bsrRvRmv p v dst src, s => some ⟨true, v.bits, dst, placeV p src s⟩
  | _, _ => none

/-- A bit scan reads its source (20_memory.md R53). -/
def ScanView.use (b : ScanView) : Use := ⟨b.src, b.w, true, false⟩

/-- The seven shifts and rotates by one operand. -/
inductive CountOp where
  | rol
  | ror
  | rcl
  | rcr
  | shl
  | shr
  | sar
deriving DecidableEq, Repr

/-- A form of a shift or rotate: its operation, width, destination, and effective count (43_shift.md R171). -/
structure CountView where
  op : CountOp
  w : Nat
  dst : Place
  c : Nat

/-- The low five bits of a count (43_shift.md R171). -/
def fiveBits (x : Byte) : Nat := x.toNat % 32

/-- The 42 forms of the shifts and rotates (43_shift.md R170, 45_rotate.md R200). -/
def countView : Instr → State → Option CountView
  | .rolRm8One p dst, s => some ⟨.rol, 8, place8 p dst s, 1⟩
  | .rolRmvOne p v dst, s => some ⟨.rol, v.bits, placeV p dst s, 1⟩
  | .rolRm8Cl p dst, s => some ⟨.rol, 8, place8 p dst s, fiveBits (s.regs.get8 .cl)⟩
  | .rolRmvCl p v dst, s => some ⟨.rol, v.bits, placeV p dst s, fiveBits (s.regs.get8 .cl)⟩
  | .rolRm8Imm8 p dst count, s => some ⟨.rol, 8, place8 p dst s, fiveBits count⟩
  | .rolRmvImm8 p v dst count, s => some ⟨.rol, v.bits, placeV p dst s, fiveBits count⟩
  | .rorRm8One p dst, s => some ⟨.ror, 8, place8 p dst s, 1⟩
  | .rorRmvOne p v dst, s => some ⟨.ror, v.bits, placeV p dst s, 1⟩
  | .rorRm8Cl p dst, s => some ⟨.ror, 8, place8 p dst s, fiveBits (s.regs.get8 .cl)⟩
  | .rorRmvCl p v dst, s => some ⟨.ror, v.bits, placeV p dst s, fiveBits (s.regs.get8 .cl)⟩
  | .rorRm8Imm8 p dst count, s => some ⟨.ror, 8, place8 p dst s, fiveBits count⟩
  | .rorRmvImm8 p v dst count, s => some ⟨.ror, v.bits, placeV p dst s, fiveBits count⟩
  | .rclRm8One p dst, s => some ⟨.rcl, 8, place8 p dst s, 1⟩
  | .rclRmvOne p v dst, s => some ⟨.rcl, v.bits, placeV p dst s, 1⟩
  | .rclRm8Cl p dst, s => some ⟨.rcl, 8, place8 p dst s, fiveBits (s.regs.get8 .cl)⟩
  | .rclRmvCl p v dst, s => some ⟨.rcl, v.bits, placeV p dst s, fiveBits (s.regs.get8 .cl)⟩
  | .rclRm8Imm8 p dst count, s => some ⟨.rcl, 8, place8 p dst s, fiveBits count⟩
  | .rclRmvImm8 p v dst count, s => some ⟨.rcl, v.bits, placeV p dst s, fiveBits count⟩
  | .rcrRm8One p dst, s => some ⟨.rcr, 8, place8 p dst s, 1⟩
  | .rcrRmvOne p v dst, s => some ⟨.rcr, v.bits, placeV p dst s, 1⟩
  | .rcrRm8Cl p dst, s => some ⟨.rcr, 8, place8 p dst s, fiveBits (s.regs.get8 .cl)⟩
  | .rcrRmvCl p v dst, s => some ⟨.rcr, v.bits, placeV p dst s, fiveBits (s.regs.get8 .cl)⟩
  | .rcrRm8Imm8 p dst count, s => some ⟨.rcr, 8, place8 p dst s, fiveBits count⟩
  | .rcrRmvImm8 p v dst count, s => some ⟨.rcr, v.bits, placeV p dst s, fiveBits count⟩
  | .shlRm8One p dst, s => some ⟨.shl, 8, place8 p dst s, 1⟩
  | .shlRmvOne p v dst, s => some ⟨.shl, v.bits, placeV p dst s, 1⟩
  | .shlRm8Cl p dst, s => some ⟨.shl, 8, place8 p dst s, fiveBits (s.regs.get8 .cl)⟩
  | .shlRmvCl p v dst, s => some ⟨.shl, v.bits, placeV p dst s, fiveBits (s.regs.get8 .cl)⟩
  | .shlRm8Imm8 p dst count, s => some ⟨.shl, 8, place8 p dst s, fiveBits count⟩
  | .shlRmvImm8 p v dst count, s => some ⟨.shl, v.bits, placeV p dst s, fiveBits count⟩
  | .shrRm8One p dst, s => some ⟨.shr, 8, place8 p dst s, 1⟩
  | .shrRmvOne p v dst, s => some ⟨.shr, v.bits, placeV p dst s, 1⟩
  | .shrRm8Cl p dst, s => some ⟨.shr, 8, place8 p dst s, fiveBits (s.regs.get8 .cl)⟩
  | .shrRmvCl p v dst, s => some ⟨.shr, v.bits, placeV p dst s, fiveBits (s.regs.get8 .cl)⟩
  | .shrRm8Imm8 p dst count, s => some ⟨.shr, 8, place8 p dst s, fiveBits count⟩
  | .shrRmvImm8 p v dst count, s => some ⟨.shr, v.bits, placeV p dst s, fiveBits count⟩
  | .sarRm8One p dst, s => some ⟨.sar, 8, place8 p dst s, 1⟩
  | .sarRmvOne p v dst, s => some ⟨.sar, v.bits, placeV p dst s, 1⟩
  | .sarRm8Cl p dst, s => some ⟨.sar, 8, place8 p dst s, fiveBits (s.regs.get8 .cl)⟩
  | .sarRmvCl p v dst, s => some ⟨.sar, v.bits, placeV p dst s, fiveBits (s.regs.get8 .cl)⟩
  | .sarRm8Imm8 p dst count, s => some ⟨.sar, 8, place8 p dst s, fiveBits count⟩
  | .sarRmvImm8 p v dst count, s => some ⟨.sar, v.bits, placeV p dst s, fiveBits count⟩
  | _, _ => none

/-- A shift or rotate reads its operand, and writes it unless the effective count is zero (20_memory.md R65). -/
def CountView.use (b : CountView) : Use := ⟨b.dst, b.w, true, decide (b.c ≠ 0)⟩

/-- A form of a double shift: whether it shifts left, its width, destination, the value of its source register, and its
effective count (44_double_shift.md R190, R191). -/
structure DoubleView where
  left : Bool
  w : Nat
  dst : Place
  src : BitVec w
  c : Nat

/-- The four forms of the double shifts (44_double_shift.md R190). -/
def doubleView : Instr → State → Option DoubleView
  | .shldRmvRvImm8 p v dst src count, s =>
    some ⟨true, v.bits, placeV p dst s, s.regs.getW v.bits src, fiveBits count⟩
  | .shldRmvRvCl p v dst src, s =>
    some ⟨true, v.bits, placeV p dst s, s.regs.getW v.bits src, fiveBits (s.regs.get8 .cl)⟩
  | .shrdRmvRvImm8 p v dst src count, s =>
    some ⟨false, v.bits, placeV p dst s, s.regs.getW v.bits src, fiveBits count⟩
  | .shrdRmvRvCl p v dst src, s =>
    some ⟨false, v.bits, placeV p dst s, s.regs.getW v.bits src, fiveBits (s.regs.get8 .cl)⟩
  | _, _ => none

/-- A double shift reads its destination, and writes it unless the effective count is zero. -/
def DoubleView.use (b : DoubleView) : Use := ⟨b.dst, b.w, true, decide (b.c ≠ 0)⟩

/-- The condition of R99's table, by number. -/
def condTable : Nat → Flags → Bool
  | 0, f => f.of
  | 1, f => !f.of
  | 2, f => f.cf
  | 3, f => !f.cf
  | 4, f => f.zf
  | 5, f => !f.zf
  | 6, f => f.cf || f.zf
  | 7, f => !f.cf && !f.zf
  | 8, f => f.sf
  | 9, f => !f.sf
  | 10, f => f.pf
  | 11, f => !f.pf
  | 12, f => f.sf != f.of
  | 13, f => f.sf == f.of
  | 14, f => f.zf || (f.sf != f.of)
  | _, f => !f.zf && (f.sf == f.of)

/-- The sixteen SETcc instructions with their condition numbers (30_encoding.md R99). -/
def setView : Instr → State → Option (Nat × Place)
  | .seto p dst, s => some (0, place8 p dst s)
  | .setno p dst, s => some (1, place8 p dst s)
  | .setc p dst, s => some (2, place8 p dst s)
  | .setnc p dst, s => some (3, place8 p dst s)
  | .sete p dst, s => some (4, place8 p dst s)
  | .setne p dst, s => some (5, place8 p dst s)
  | .setbe p dst, s => some (6, place8 p dst s)
  | .setnbe p dst, s => some (7, place8 p dst s)
  | .sets p dst, s => some (8, place8 p dst s)
  | .setns p dst, s => some (9, place8 p dst s)
  | .setp p dst, s => some (10, place8 p dst s)
  | .setnp p dst, s => some (11, place8 p dst s)
  | .setl p dst, s => some (12, place8 p dst s)
  | .setnl p dst, s => some (13, place8 p dst s)
  | .setle p dst, s => some (14, place8 p dst s)
  | .setnle p dst, s => some (15, place8 p dst s)
  | _, _ => none

/-- A form of a conditional jump: whether CF = 1 takes it, its operand size, its displacement. -/
structure JumpView where
  onCarry : Bool
  v : OpSize
  rel : Int

/-- The four forms of JC and JNC (46_setcc_and_referenced.md R233 to R235). -/
def jumpView : Instr → Option JumpView
  | .jcRel8 _ v rel => some ⟨true, v, rel.toInt⟩
  | .jcRelv _ rel => some ⟨true, rel.size, rel.value.toInt⟩
  | .jncRel8 _ v rel => some ⟨false, v, rel.toInt⟩
  | .jncRelv _ rel => some ⟨false, rel.size, rel.value.toInt⟩
  | _ => none

/-- A form of IDIV: its width and its divisor's place (46_setcc_and_referenced.md R231). -/
structure DivideView where
  w : Nat
  src : Place

/-- The two forms of IDIV. -/
def divideView : Instr → State → Option DivideView
  | .idivRm8 p src, s => some ⟨8, place8 p src s⟩
  | .idivRmv p v src, s => some ⟨v.bits, placeV p src s⟩
  | _, _ => none

/-- IDIV reads its divisor. -/
def DivideView.use (b : DivideView) : Use := ⟨b.src, b.w, true, false⟩

/-- The divisor. -/
def DivideView.divisor (b : DivideView) (s : State) : Int := (b.src.read b.w s).toInt

/-- The dividend: AX, DX:AX or EDX:EAX as one signed number (46_setcc_and_referenced.md R231). -/
def DivideView.dividend (b : DivideView) (s : State) : Int :=
  if b.w = 8 then (s.regs.getW 16 .eax).toInt
  else (s.regs.getW b.w .edx).toInt * 2 ^ b.w + (s.regs.getW b.w .eax).toNat

/-- Where the quotient goes: AL, AX or EAX. -/
def DivideView.quotientPlace (b : DivideView) : Place := if b.w = 8 then .byteReg .al else .reg .eax

/-- Where the remainder goes: AH, DX or EDX. -/
def DivideView.remainderPlace (b : DivideView) : Place := if b.w = 8 then .byteReg .ah else .reg .edx

/-- The signed `w`-bit numbers. -/
def fits (w : Nat) (q : Int) : Prop := -2 ^ (w - 1) ≤ q ∧ q ≤ 2 ^ (w - 1) - 1

/-- From `s` to `t` quotient and remainder of the division come to stand in their registers and six values drawn apart in
the flags; no other register bit and no byte of memory changes, EIP moves past and the parameters stay. -/
def DivideView.Done (b : DivideView) (i : Instr) (s t : State) : Prop :=
  (b.quotientPlace.read b.w t).toInt = (b.dividend s).tdiv (b.divisor s) ∧
    (b.remainderPlace.read b.w t).toInt = (b.dividend s).tmod (b.divisor s) ∧
    (∀ q j, ¬ b.quotientPlace.coversBit b.w q j → ¬ b.remainderPlace.coversBit b.w q j →
      (t.regs.get q).getLsbD j = (s.regs.get q).getLsbD j) ∧
    DrawnApart [t.flags.of, t.flags.sf, t.flags.zf, t.flags.af, t.flags.pf, t.flags.cf] s t ∧
    t.mem = s.mem ∧ Advances i s t

/-- The operand of each instruction that may be in memory, as the instruction uses it (20_memory.md R53). -/
def useOf (i : Instr) (s : State) : Option Use :=
  (logicView i s).map (·.use) <|> notView i s <|> (bitView i s).map (·.use) <|> (scanView i s).map (·.use) <|>
    (countView i s).map (·.use) <|> (doubleView i s).map (·.use) <|>
    (setView i s).map (fun v => ⟨v.2, 8, false, true⟩) <|> (divideView i s).map (·.use)

/-- The register of a byte R/M operand, if it is one. -/
def rm8Regs : Rm8 → List Reg
  | .reg r => [Reg8.whole r]
  | .mem _ => []

/-- The register of a word or doubleword R/M operand, if it is one. -/
def rmvRegs : Rmv → List Reg
  | .reg r => [r]
  | .mem _ => []

/-- The registers an instruction may write: its destination register operand, and for IDIV the implicit ones
(10_state.md R24). -/
def destRegs : Instr → List Reg
  | .orRm8R8 _ d _ => rm8Regs d
  | .orRmvRv _ _ d _ => rmvRegs d
  | .orR8Rm8 _ d _ => [Reg8.whole d]
  | .orRvRmv _ _ d _ => [d]
  | .orAlImm8 _ _ => [.eax]
  | .orEaxImmv _ _ => [.eax]
  | .orRm8Imm8 _ d _ => rm8Regs d
  | .orRmvImmv _ d _ => rmvRegs d
  | .orRmvImm8sx _ _ d _ => rmvRegs d
  | .andRm8R8 _ d _ => rm8Regs d
  | .andRmvRv _ _ d _ => rmvRegs d
  | .andR8Rm8 _ d _ => [Reg8.whole d]
  | .andRvRmv _ _ d _ => [d]
  | .andAlImm8 _ _ => [.eax]
  | .andEaxImmv _ _ => [.eax]
  | .andRm8Imm8 _ d _ => rm8Regs d
  | .andRmvImmv _ d _ => rmvRegs d
  | .andRmvImm8sx _ _ d _ => rmvRegs d
  | .xorRm8R8 _ d _ => rm8Regs d
  | .xorRmvRv _ _ d _ => rmvRegs d
  | .xorR8Rm8 _ d _ => [Reg8.whole d]
  | .xorRvRmv _ _ d _ => [d]
  | .xorAlImm8 _ _ => [.eax]
  | .xorEaxImmv _ _ => [.eax]
  | .xorRm8Imm8 _ d _ => rm8Regs d
  | .xorRmvImmv _ d _ => rmvRegs d
  | .xorRmvImm8sx _ _ d _ => rmvRegs d
  | .notRm8 _ d => rm8Regs d
  | .notRmv _ _ d => rmvRegs d
  | .btRmvRv _ _ _ _ => []
  | .btRmvImm8 _ _ _ _ => []
  | .btsRmvRv _ _ d _ => rmvRegs d
  | .btsRmvImm8 _ _ d _ => rmvRegs d
  | .btrRmvRv _ _ d _ => rmvRegs d
  | .btrRmvImm8 _ _ d _ => rmvRegs d
  | .btcRmvRv _ _ d _ => rmvRegs d
  | .btcRmvImm8 _ _ d _ => rmvRegs d
  | .bsfRvRmv _ _ d _ => [d]
  | .bsrRvRmv _ _ d _ => [d]
  | .rolRm8One _ d => rm8Regs d
  | .rolRmvOne _ _ d => rmvRegs d
  | .rolRm8Cl _ d => rm8Regs d
  | .rolRmvCl _ _ d => rmvRegs d
  | .rolRm8Imm8 _ d _ => rm8Regs d
  | .rolRmvImm8 _ _ d _ => rmvRegs d
  | .rorRm8One _ d => rm8Regs d
  | .rorRmvOne _ _ d => rmvRegs d
  | .rorRm8Cl _ d => rm8Regs d
  | .rorRmvCl _ _ d => rmvRegs d
  | .rorRm8Imm8 _ d _ => rm8Regs d
  | .rorRmvImm8 _ _ d _ => rmvRegs d
  | .rclRm8One _ d => rm8Regs d
  | .rclRmvOne _ _ d => rmvRegs d
  | .rclRm8Cl _ d => rm8Regs d
  | .rclRmvCl _ _ d => rmvRegs d
  | .rclRm8Imm8 _ d _ => rm8Regs d
  | .rclRmvImm8 _ _ d _ => rmvRegs d
  | .rcrRm8One _ d => rm8Regs d
  | .rcrRmvOne _ _ d => rmvRegs d
  | .rcrRm8Cl _ d => rm8Regs d
  | .rcrRmvCl _ _ d => rmvRegs d
  | .rcrRm8Imm8 _ d _ => rm8Regs d
  | .rcrRmvImm8 _ _ d _ => rmvRegs d
  | .shlRm8One _ d => rm8Regs d
  | .shlRmvOne _ _ d => rmvRegs d
  | .shlRm8Cl _ d => rm8Regs d
  | .shlRmvCl _ _ d => rmvRegs d
  | .shlRm8Imm8 _ d _ => rm8Regs d
  | .shlRmvImm8 _ _ d _ => rmvRegs d
  | .shrRm8One _ d => rm8Regs d
  | .shrRmvOne _ _ d => rmvRegs d
  | .shrRm8Cl _ d => rm8Regs d
  | .shrRmvCl _ _ d => rmvRegs d
  | .shrRm8Imm8 _ d _ => rm8Regs d
  | .shrRmvImm8 _ _ d _ => rmvRegs d
  | .sarRm8One _ d => rm8Regs d
  | .sarRmvOne _ _ d => rmvRegs d
  | .sarRm8Cl _ d => rm8Regs d
  | .sarRmvCl _ _ d => rmvRegs d
  | .sarRm8Imm8 _ d _ => rm8Regs d
  | .sarRmvImm8 _ _ d _ => rmvRegs d
  | .shldRmvRvImm8 _ _ d _ _ => rmvRegs d
  | .shldRmvRvCl _ _ d _ => rmvRegs d
  | .shrdRmvRvImm8 _ _ d _ _ => rmvRegs d
  | .shrdRmvRvCl _ _ d _ => rmvRegs d
  | .seto _ d => rm8Regs d
  | .setno _ d => rm8Regs d
  | .setc _ d => rm8Regs d
  | .setnc _ d => rm8Regs d
  | .sete _ d => rm8Regs d
  | .setne _ d => rm8Regs d
  | .setbe _ d => rm8Regs d
  | .setnbe _ d => rm8Regs d
  | .sets _ d => rm8Regs d
  | .setns _ d => rm8Regs d
  | .setp _ d => rm8Regs d
  | .setnp _ d => rm8Regs d
  | .setl _ d => rm8Regs d
  | .setnl _ d => rm8Regs d
  | .setle _ d => rm8Regs d
  | .setnle _ d => rm8Regs d
  | .jcRel8 _ _ _ => []
  | .jcRelv _ _ => []
  | .jncRel8 _ _ _ => []
  | .jncRelv _ _ => []
  | .idivRm8 _ _ => [.eax]
  | .idivRmv _ _ _ => [.eax, .edx]

/-- The same instruction with the LOCK mark put or taken away, for each row whose `lock_ok` is true (30_encoding.md R84). -/
def withLock (b : Bool) : Instr → Option Instr
  | .orRm8R8 p dst src => some (.orRm8R8 { p with lock := b } dst src)
  | .orRmvRv p v dst src => some (.orRmvRv { p with lock := b } v dst src)
  | .orRm8Imm8 p dst imm => some (.orRm8Imm8 { p with lock := b } dst imm)
  | .orRmvImmv p dst imm => some (.orRmvImmv { p with lock := b } dst imm)
  | .orRmvImm8sx p v dst imm => some (.orRmvImm8sx { p with lock := b } v dst imm)
  | .andRm8R8 p dst src => some (.andRm8R8 { p with lock := b } dst src)
  | .andRmvRv p v dst src => some (.andRmvRv { p with lock := b } v dst src)
  | .andRm8Imm8 p dst imm => some (.andRm8Imm8 { p with lock := b } dst imm)
  | .andRmvImmv p dst imm => some (.andRmvImmv { p with lock := b } dst imm)
  | .andRmvImm8sx p v dst imm => some (.andRmvImm8sx { p with lock := b } v dst imm)
  | .xorRm8R8 p dst src => some (.xorRm8R8 { p with lock := b } dst src)
  | .xorRmvRv p v dst src => some (.xorRmvRv { p with lock := b } v dst src)
  | .xorRm8Imm8 p dst imm => some (.xorRm8Imm8 { p with lock := b } dst imm)
  | .xorRmvImmv p dst imm => some (.xorRmvImmv { p with lock := b } dst imm)
  | .xorRmvImm8sx p v dst imm => some (.xorRmvImm8sx { p with lock := b } v dst imm)
  | .notRm8 p dst => some (.notRm8 { p with lock := b } dst)
  | .notRmv p v dst => some (.notRmv { p with lock := b } v dst)
  | .btsRmvRv p v base off => some (.btsRmvRv { p with lock := b } v base off)
  | .btsRmvImm8 p v base off => some (.btsRmvImm8 { p with lock := b } v base off)
  | .btrRmvRv p v base off => some (.btrRmvRv { p with lock := b } v base off)
  | .btrRmvImm8 p v base off => some (.btrRmvImm8 { p with lock := b } v base off)
  | .btcRmvRv p v base off => some (.btcRmvRv { p with lock := b } v base off)
  | .btcRmvImm8 p v base off => some (.btcRmvImm8 { p with lock := b } v base off)
  | _ => none

/-- The six segment-override bytes (30_encoding.md R82). -/
def segMarks : List Byte := [0x26, 0x2E, 0x36, 0x3E, 0x64, 0x65]

/-- The bytes that R82 admits before an opcode. -/
def isMark (b : Byte) : Bool :=
  [0x66, 0x67, 0xF0].contains b || segMarks.contains b

/-- Two marks of one kind: the same byte, or two segment overrides (30_encoding.md R82). -/
def sameKind (b c : Byte) : Bool :=
  decide (b = c) || (segMarks.contains b && segMarks.contains c)

/-- The address size under these marks (30_encoding.md R82, R83). -/
def addrsizeUnder (z : Sizes) (ps : List Byte) : OpSize :=
  if ps.contains 0x67 then z.addrsize.other else z.addrsize

end Sys2Proof.Claims

open Sys2Proof Sys2Proof.Machine Sys2Proof.Claims

/-! ### Encoding (30_encoding.md) -/

/-- A few words written out from the spec's encoding decode to the instructions they stand for. -/
def Obligations.SampleWordsDecode : Prop :=
  decode .flat32 [0xC1, 0xFB, 0x02] = .ok (.sarRmvImm8 .empty .w32 (.reg .ebx) 2, []) ∧
  decode .flat32 [0xF7, 0xF9] = .ok (.idivRmv .empty .w32 (.reg .ecx), []) ∧
  decode .flat32 [0x66, 0x25, 0x00, 0xFF] =
    .ok (.andEaxImmv { Marks.empty with opsize := true } (.i16 0xFF00), []) ∧
  decode .flat32 [0x0F, 0xA4, 0xC2, 0x04] = .ok (.shldRmvRvImm8 .empty .w32 (.reg .edx) .eax 4, []) ∧
  decode .flat32 [0x0F, 0x92, 0xC2] = .ok (.setc .empty (.reg .dl), []) ∧
  decode .flat32 [0x73, 0xF8] = .ok (.jncRel8 .empty .w32 0xF8, [])

/-- DECODE AND ENCODE AGREE: the decoder gives back every well-formed instruction from its bytes, whatever follows them,
under any default sizes (the encoder's one order of the marks is log 15). -/
def Obligations.DecodeOfEncode : Prop :=
  ∀ (z : Sizes) (i : Instr) (rest : List Byte), i.wf z = true → decode z (encode i ++ rest) = .ok (i, rest)

/-- What the decoder accepts is well-formed; the bytes it takes are the instruction's own encoding, as many as its length
says, but for the order of the marks before the opcode; and the bytes after those do not matter. -/
def Obligations.DecodeConsumesItsLength : Prop :=
  ∀ (z : Sizes) (bs r : List Byte) (i : Instr), decode z bs = .ok (i, r) →
    i.wf z = true ∧ ∃ ms body, bs = ms ++ body ++ r ∧ encode i = i.marks.bytes ++ body ∧ ms.Perm i.marks.bytes ∧
      (ms ++ body).length = i.length ∧ ∀ r', decode z (ms ++ body ++ r') = .ok (i, r')

/-- An instruction has at least one byte and at most fifteen (R81). -/
def Obligations.LengthWithinFifteen : Prop :=
  ∀ i : Instr, 1 ≤ i.length ∧ i.length ≤ 15

/-- The marks before an opcode may stand in any order (R82). -/
def Obligations.MarkOrderIrrelevant : Prop :=
  ∀ (z : Sizes) (ps qs bs : List Byte), ps.Perm qs → (∀ b ∈ ps, isMark b = true) →
    decode z (ps ++ bs) = decode z (qs ++ bs)

/-- The byte sequences that R82, R89, R99 and R110 name as refused are no instruction, whatever marks `ps` stand before
them: REP marks; a second mark of a kind, two segment overrides among them, with any marks `qs` between; /6 of the shift
group; the other `reg` values of 80, 81, 83, F6, F7 and 0F BA; SETcc with a `reg` field that is not zero; opcode 82 and
every other opcode without a row; and, after every opcode that has a ModR/M byte, an SIB byte with no index and a scale
in 32-bit addressing. -/
def Obligations.ReservedEncodingsRefused : Prop :=
  ∀ (z : Sizes) (ps : List Byte), (∀ x ∈ ps, isMark x = true) →
    ∀ (m b : Byte) (rest : List Byte) (i : Instr) (r : List Byte),
      decode z (ps ++ 0xF2 :: rest) ≠ .ok (i, r) ∧ decode z (ps ++ 0xF3 :: rest) ≠ .ok (i, r) ∧
      (∀ (c : Byte) (qs : List Byte), isMark b = true → sameKind b c = true → (∀ x ∈ qs, isMark x = true) →
        decode z (ps ++ b :: (qs ++ c :: rest)) ≠ .ok (i, r)) ∧
      (b ∈ [0xC0, 0xC1, 0xD0, 0xD1, 0xD2, 0xD3] → m.extractLsb' 3 3 = 6 →
        decode z (ps ++ b :: m :: rest) ≠ .ok (i, r)) ∧
      (b ∈ [0x80, 0x81, 0x83] → m.extractLsb' 3 3 ∈ [0#3, 2#3, 3#3, 5#3, 7#3] →
        decode z (ps ++ b :: m :: rest) ≠ .ok (i, r)) ∧
      (b ∈ [0xF6, 0xF7] → m.extractLsb' 3 3 ∈ [0#3, 1#3, 3#3, 4#3, 5#3, 6#3] →
        decode z (ps ++ b :: m :: rest) ≠ .ok (i, r)) ∧
      (m.extractLsb' 3 3 ∈ [0#3, 1#3, 2#3, 3#3] →
        decode z (ps ++ 0x0F :: 0xBA :: m :: rest) ≠ .ok (i, r)) ∧
      (0x90 ≤ b.toNat → b.toNat ≤ 0x9F → m.extractLsb' 3 3 ≠ 0 →
        decode z (ps ++ 0x0F :: b :: m :: rest) ≠ .ok (i, r)) ∧
      decode z (ps ++ 0x82 :: rest) ≠ .ok (i, r) ∧
      (Opcode.layout (.one b) = none → isMark b = false → b ≠ 0x0F → decode z (ps ++ b :: rest) ≠ .ok (i, r)) ∧
      (Opcode.layout (.esc b) = none → decode z (ps ++ 0x0F :: b :: rest) ≠ .ok (i, r)) ∧
      ∀ (op : Opcode) (y : Layout), op.layout = some y → y.modrm = true → addrsizeUnder z ps = .w32 →
        m.extractLsb' 6 2 ≠ 3#2 → m.extractLsb' 0 3 = 4#3 → b.extractLsb' 3 3 = 4#3 → b.extractLsb' 6 2 ≠ 0#2 →
        decode z (ps ++ op.bytes ++ m :: b :: rest) ≠ .ok (i, r)

/-- LOCK is accepted on a `lock_ok` row with a memory operand, and the step faults with InvalidOpcode and the
instruction's address on every other row and on a register (R84, 60_exceptions.md R242; that LOCK is judged after the
rest of the encoding is the model's reading, log 14). -/
def Obligations.LockAcceptedOrInvalidOpcode : Prop :=
  ∀ (s : State) (i : Instr) (r : List Byte), s.eip ≠ s.params.endAddr → s.inText s.eip = true →
    decodeRaw s.params.sizes (s.codeBytes 15 s.eip) = .ok (i, r) → i.marks.lock = true →
      ((withLock true i).isSome = true → i.shape.mem.isSome = true → fetch s = .next i) ∧
      ((withLock true i).isSome = false ∨ i.shape.mem = none → step s = .fault (.invalidOpcode s.eip))

/-- A LOCK mark that is accepted changes nothing but the instruction's length, with the same draws (20_memory.md R54; that
LOCK changes nothing is log 18, and that two executions from one count of draws draw alike is the model's choice, log 7:
the spec lets each draw differ). -/
def Obligations.LockHasNoEffect : Prop :=
  ∀ (i j : Instr) (s t : State), withLock true i = some i → withLock false i = some j → exec j s = .next t →
    exec i s = .next { t with eip := t.eip + 1 }

/-! ### The step (60_exceptions.md, 70_reset_and_hazards.md) -/

/-- A STEP RUNS THE DECODED INSTRUCTION, AND NOTHING ELSE. With EIP inside the text, the step is exec of the instruction
its bytes decode to, and where that answers a next state: END_ADDR ends the run, another EIP outside the text is refused,
and so is one inside it that neither follows the instruction nor is an instruction's start (how R276 is checked is log
12). Bytes that the decoder refuses are refused by the step under the decoder's reason (R110, R246), but InvalidOpcode is
raised where the reason is LOCK (R84; log 14); bytes that end too early are `FetchFaults`. -/
def Obligations.StepRunsDecodedInstruction : Prop :=
  ∀ s : State, s.eip ≠ s.params.endAddr → s.inText s.eip = true →
    (∀ (i : Instr) (r : List Byte), decode s.params.sizes (s.codeBytes 15 s.eip) = .ok (i, r) →
      i.wf s.params.sizes = true ∧
      (∀ f, exec i s = .fault f → step s = .fault f) ∧
      (∀ f, exec i s = .refused f → step s = .refused f) ∧
      ∀ t, exec i s = .next t →
        (t.eip = s.params.endAddr → step s = .next t) ∧
        (t.eip ≠ s.params.endAddr → s.inText t.eip = false → step s = .refused (.outsideText t.eip)) ∧
        (s.inText t.eip = true → (t.eip = s.eip + BitVec.ofNat 32 i.length ∨ t.isStart t.eip = true) →
          step s = .next t) ∧
        (t.eip ≠ s.params.endAddr → s.inText t.eip = true → t.eip ≠ s.eip + BitVec.ofNat 32 i.length →
          t.isStart t.eip = false → step s = .refused (.midInstruction t.eip))) ∧
    (∀ e, decode s.params.sizes (s.codeBytes 15 s.eip) = .error e → e ≠ .truncated → e ≠ .lockNotAccepted →
      step s = .refused (.encoding e)) ∧
    (decode s.params.sizes (s.codeBytes 15 s.eip) = .error .lockNotAccepted →
      step s = .fault (.invalidOpcode s.eip))

/-- At END_ADDR the run is over; any other EIP outside the text is refused (70_reset_and_hazards.md R276). That a final
state is answered with a refusal is the model's choice (log 12). -/
def Obligations.OutsideTextNoStep : Prop :=
  ∀ s : State, (s.eip = s.params.endAddr → step s = .refused .endOfRun) ∧
    (s.eip ≠ s.params.endAddr → s.inText s.eip = false → step s = .refused (.outsideText s.eip))

/-- A FETCH THAT STOPS AT ANY BYTE of the instruction. Where the first `k` bytes are in the text, are admitted and end
inside an instruction: a byte `k` whose fetch is not admitted faults with that byte's address (20_memory.md R51,
60_exceptions.md R242, R246), and a byte `k` past END_ADDR is refused (log 12). That code stands at the linear addresses
of CS is the model's reading, log 9; how far bytes that are no row are fetched is its choice, log 25. -/
def Obligations.FetchFaults : Prop :=
  ∀ (s : State) (k : Nat), s.eip ≠ s.params.endAddr → s.inText s.eip = true → k < 15 →
    (∀ j, j < k → s.inText (s.eip + BitVec.ofNat 32 j) = true ∧
      s.admits (s.codeAddr (s.eip + BitVec.ofNat 32 j)) 1 .fetch = true) →
    decode s.params.sizes ((List.range k).map fun j => s.codeByte (s.eip + BitVec.ofNat 32 j)) = .error .truncated →
    (s.inText (s.eip + BitVec.ofNat 32 k) = true →
      s.admits (s.codeAddr (s.eip + BitVec.ofNat 32 k)) 1 .fetch = false →
      step s = .fault (.memFault (s.codeAddr (s.eip + BitVec.ofNat 32 k)) 1 .fetch)) ∧
    (s.inText (s.eip + BitVec.ofNat 32 k) = false → step s = .refused .pastText)

/-- AN INVARIANT THAT EVERY STEP KEEPS: memory in canonical form, and EIP at END_ADDR or at the start of an instruction
of the program as decoded from TEXT_BASE (70_reset_and_hazards.md R276; log 12). -/
def Obligations.StepKeepsGood : Prop :=
  ∀ s t : State, s.good = true → step s = .next t → t.good = true

/-- The invariant holds right after reset (where no program is loaded: the model's choice, log 11). -/
def Obligations.ResetIsGood : Prop := State.reset.good = true

/-- THE PROGRAM IS IMMUTABLE along every run from every good state: its text bytes and every parameter stay, and the state
reached is good (20_memory.md R63, 10_state.md R33; that State holds the parameters is log 3). -/
def Obligations.RunNeverChangesProgram : Prop :=
  ∀ (k : Nat) (s t : State), s.good = true → Host.Core.run Sys2Proof.core k s = .next t →
    t.good = true ∧ t.params = s.params ∧ ∀ off, s.inText off = true → t.codeByte off = s.codeByte off

/-- A step that answers a next state ran an instruction that lies wholly inside the text, so EIP did not wrap, and left
EIP in the text or at its end (10_state.md R25, 70_reset_and_hazards.md R276). That an instruction must end inside the
text is the model's choice, log 12, and that no step then wraps is its inference, log 13. -/
def Obligations.StepStaysInText : Prop :=
  ∀ s t : State, step s = .next t → ∃ i, fetch s = .next i ∧ exec i s = .next t ∧
    s.params.textBase.toNat ≤ s.eip.toNat ∧ s.eip.toNat + i.length ≤ s.params.endAddr.toNat ∧
    s.params.textBase.toNat ≤ t.eip.toNat ∧ t.eip.toNat ≤ s.params.endAddr.toNat

/-- A table word loaded where the machine fetches is the instruction it fetches next (log 11: the model's own way to load
a program). -/
def Obligations.LoadedWordIsFetched : Prop :=
  ∀ (s : State) (nbits w : Nat) (i : Instr) (r : List Byte), Memory.wf s.mem = true → s.eip.toNat + 15 < 2 ^ 32 →
    decode s.params.sizes (tableBytes nbits w) = .ok (i, r) → fetch (s.withFetchWord nbits w) = .next i

/-! ### Registers, memory and addresses (10_state.md, 20_memory.md) -/

/-- The register names and the bits they stand for (10_state.md R22). -/
def Obligations.RegisterReads : Prop :=
  ∀ g : Regs, (∀ r, g.getW 32 r = g.get r) ∧ (∀ r, g.getW 16 r = (g.get r).extractLsb' 0 16) ∧
    g.get8 .al = g.eax.extractLsb' 0 8 ∧ g.get8 .cl = g.ecx.extractLsb' 0 8 ∧
    g.get8 .dl = g.edx.extractLsb' 0 8 ∧ g.get8 .bl = g.ebx.extractLsb' 0 8 ∧
    g.get8 .ah = g.eax.extractLsb' 8 8 ∧ g.get8 .ch = g.ecx.extractLsb' 8 8 ∧
    g.get8 .dh = g.edx.extractLsb' 8 8 ∧ g.get8 .bh = g.ebx.extractLsb' 8 8

/-- Writing a register of any width changes exactly the bits its name stands for (10_state.md R23). -/
def Obligations.RegisterWrites : Prop :=
  ∀ s : State,
    (∀ (r : Reg8) (v : Byte), WritesOnly (.byteReg r) v s (Place.write (.byteReg r) v s)) ∧
    (∀ (r : Reg) (v : BitVec 16), WritesOnly (.reg r) v s (Place.write (.reg r) v s)) ∧
    (∀ (r : Reg) (v : BitVec 32), WritesOnly (.reg r) v s (Place.write (.reg r) v s))

/-- The flags' places in EFLAGS, the other bits being whatever they were (10_state.md R27). -/
def Obligations.FlagPlaces : Prop :=
  ∀ (f : Flags) (x : Dword) (j : Nat), j < 32 → (f.image x).getLsbD j =
    if j = 0 then f.cf else if j = 2 then f.pf else if j = 4 then f.af else if j = 6 then f.zf
    else if j = 7 then f.sf else if j = 11 then f.of else x.getLsbD j

/-- A load puts the byte at the lowest address lowest, addresses modulo 2^32, at any alignment (20_memory.md R50 to R52). -/
def Obligations.LoadIsLittleEndian : Prop :=
  ∀ (m : Memory) (a : Dword),
    Memory.load m 8 a = Memory.byte m a.toNat ∧
    Memory.load m 16 a = Memory.byte m (a + 1).toNat ++ Memory.byte m a.toNat ∧
    Memory.load m 32 a = Memory.byte m (a + 3).toNat ++ Memory.byte m (a + 2).toNat ++
      Memory.byte m (a + 1).toNat ++ Memory.byte m a.toNat

/-- A store is read back, byte `j` of the value standing at address `a + j`, and every other byte stays (20_memory.md R50,
R51, R59). -/
def Obligations.StoreThenLoad : Prop :=
  ∀ (m : Memory) (w : Nat) (a : Dword) (v : BitVec w), Memory.wf m = true → w ∈ [8, 16, 32] →
    Memory.load (Memory.store m a v) w a = v ∧
    (∀ j, j < w / 8 →
      Memory.byte (Memory.store m a v) (a + BitVec.ofNat 32 j).toNat = v.extractLsb' (8 * j) 8) ∧
    ∀ b : Dword, w / 8 ≤ (b - a).toNat → Memory.byte (Memory.store m a v) b.toNat = Memory.byte m b.toNat

/-- The linear address of a memory operand: the segment's base plus base, scaled index and signed displacement, modulo
2^32, or modulo 2^16 before the base is added in 16-bit addressing; the segment is the override's, else SS for base ESP,
EBP or BP, else DS (20_memory.md R55). -/
def Obligations.EffectiveAddress : Prop :=
  ∀ (p : Marks) (s : State),
    (∀ (sib : Bool) (base : Option Reg) (index : Option (Reg × Scale)) (disp : Disp 32),
      ((MemOp.addr (.a32 sib base index disp) p s).toNat : Int) =
        ((SegBases.base s.params.segBase (p.seg.getD (if base = some .esp ∨ base = some .ebp then .ss else .ds))).toNat +
          (match base with
            | none => 0
            | some b => ((s.regs.get b).toNat : Int)) +
          (match index with
            | none => 0
            | some (x, .x1) => ((s.regs.get x).toNat : Int)
            | some (x, .x2) => ((s.regs.get x).toNat : Int) * 2
            | some (x, .x4) => ((s.regs.get x).toNat : Int) * 4
            | some (x, .x8) => ((s.regs.get x).toNat : Int) * 8) +
          (match disp with
            | .none => 0
            | .d8 d => d.toInt
            | .full d => d.toInt)) % 2 ^ 32) ∧
    ∀ (base : Option Base16) (index : Option Index16) (disp : Disp 16),
      ((MemOp.addr (.a16 base index disp) p s).toNat : Int) =
        ((SegBases.base s.params.segBase (p.seg.getD (if base = some .bp then .ss else .ds))).toNat +
          ((match base with
            | none => 0
            | some .bx => ((s.regs.getW 16 .ebx).toNat : Int)
            | some .bp => ((s.regs.getW 16 .ebp).toNat : Int)) +
          (match index with
            | none => 0
            | some .si => ((s.regs.getW 16 .esi).toNat : Int)
            | some .di => ((s.regs.getW 16 .edi).toNat : Int)) +
          (match disp with
            | .none => 0
            | .d8 d => d.toInt
            | .full d => d.toInt)) % 2 ^ 16) % 2 ^ 32

/-! ### What every instruction keeps to (10_state.md R24, R25, R28, 20_memory.md R53, R63, R65) -/

/-- Every instruction with an operand that may be in memory raises MemFault on a read, or else a write, that is not
admitted, where it does not touch the program text (20_memory.md R51, R53, R65, 60_exceptions.md R243; log 10). -/
def Obligations.UnadmittedAccessFaults : Prop :=
  ∀ (i : Instr) (s : State) (u : Use), useOf i s = some u → MemFaults i s u

/-- Every write that would overlap the program text is refused (20_memory.md R63), before admission is looked at (log 10:
the model's order). -/
def Obligations.TextWriteRefused : Prop :=
  ∀ (i : Instr) (s : State) (u : Use) (a : Dword), useOf i s = some u → u.place = .mem a → u.wr = true →
    s.hitsText a (u.w / 8) = true → exec i s = .refused (.textWrite a (u.w / 8))

/-- An instruction that answers a next state made admitted accesses only, and its memory changed only in the operand it
writes (20_memory.md R51, R53, R65). -/
def Obligations.MemoryFrame : Prop :=
  ∀ (i : Instr) (s t : State), Memory.wf s.mem = true → exec i s = .next t →
    (∀ u, useOf i s = some u → u.ready s) ∧
    ∀ b, (∀ u, useOf i s = some u → u.wr = true → ¬ u.place.covers u.w b) → t.byteAt b = s.byteAt b

/-- An instruction changes no register but its destination register operand, and IDIV the quotient's and the remainder's
(10_state.md R24). -/
def Obligations.RegisterFrame : Prop :=
  ∀ (i : Instr) (s t : State) (q : Reg), exec i s = .next t → q ∉ destRegs i → t.regs.get q = s.regs.get q

/-- NOT, SETcc, JC and JNC leave every flag; a shift, rotate or double shift by an effective count of zero leaves every
flag; the rotates leave SF, ZF, AF and PF (10_state.md R28). -/
def Obligations.FlagFrame : Prop :=
  ∀ (i : Instr) (s t : State), exec i s = .next t →
    ((notView i s).isSome = true ∨ (setView i s).isSome = true ∨ (jumpView i).isSome = true → t.flags = s.flags) ∧
    (∀ b, countView i s = some b → b.c = 0 → t.flags = s.flags) ∧
    (∀ b, doubleView i s = some b → b.c = 0 → t.flags = s.flags) ∧
    ∀ b, countView i s = some b → b.op ∈ [.rol, .ror, .rcl, .rcr] →
      t.flags.sf = s.flags.sf ∧ t.flags.zf = s.flags.zf ∧ t.flags.af = s.flags.af ∧ t.flags.pf = s.flags.pf

/-- Every instruction but JC and JNC moves EIP past itself, none changes a parameter (10_state.md R25, R33), and none
lowers the model's count of draws, on which it rests that a drawn value is one no earlier instruction drew (log 7). -/
def Obligations.EipAdvances : Prop :=
  ∀ (i : Instr) (s t : State), exec i s = .next t →
    t.params = s.params ∧ s.draws ≤ t.draws ∧ (jumpView i = none → t.eip = s.eip + BitVec.ofNat 32 i.length)

/-- No instruction reads AF: whatever AF is before, registers, memory, EIP and the other flags come out the same, with the
same draws (10_state.md R28, 46_setcc_and_referenced.md R221; that two executions from one count of draws draw alike is
the model's choice, log 7: the spec lets each draw differ). -/
def Obligations.AuxiliaryFlagNeverRead : Prop :=
  ∀ (i : Instr) (s t : State) (b : Bool), exec i s = .next t →
    ∃ t', exec i { s with flags := { s.flags with af := b } } = .next t' ∧
      t'.regs = t.regs ∧ t'.mem = t.mem ∧ t'.eip = t.eip ∧
      { t'.flags with af := false } = { t.flags with af := false }

/-! ### NOT, AND, OR, XOR (40_boolean.md) -/

/-- NOT, both forms: every bit inverted, no flag changed (R120). -/
def Obligations.NotResult : Prop :=
  ∀ (i : Instr) (s : State) (u : Use), notView i s = some u → Memory.wf s.mem = true →
    (u.ready s → ∃ t, exec i s = .next t ∧
      (∃ r : BitVec u.w, (∀ j, j < u.w → r.getLsbD j = !(u.place.read u.w s).getLsbD j) ∧
        WritesOnly u.place r s t) ∧ t.flags = s.flags ∧ Advances i s t) ∧ MemFaults i s u

/-- AND, OR and XOR, all 27 forms: the result bit by bit, OF and CF cleared, AF drawn, SF, ZF and PF from the result
(R121 to R123). -/
def Obligations.LogicResult : Prop :=
  ∀ (i : Instr) (s : State) (b : LogicView), logicView i s = some b → Memory.wf s.mem = true →
    (b.use.ready s → ∃ t, exec i s = .next t ∧
      (∃ r : BitVec b.w,
        (∀ j, j < b.w → r.getLsbD j = b.op.bit ((b.dst.read b.w s).getLsbD j) (b.src.getLsbD j)) ∧
        WritesOnly b.dst r s t ∧ HasSzp r t.flags) ∧
      t.flags.of = false ∧ t.flags.cf = false ∧ Drawn t.flags.af s t ∧ Advances i s t) ∧ MemFaults i s b.use

/-! ### BT, BTS, BTR, BTC (41_bit_test.md) -/

/-- The bit tests, all eight forms: CF receives the old value of the selected bit, the bit its new value, the other five
flags are drawn, each on its own (R140, R142, R144 to R147). The unit that a memory base and an offset in a register
select, and that its bytes and no others are accessed, is R143 as the model reads it, log 20. -/
def Obligations.BitTestResult : Prop :=
  ∀ (i : Instr) (s : State) (b : BitView), bitView i s = some b → Memory.wf s.mem = true →
    (b.use.ready s → ∃ t, exec i s = .next t ∧
      t.flags.cf = (b.unit.read b.w s).getLsbD b.index ∧
      (b.op = .test → SameData s t) ∧
      (∃ r : BitVec b.w,
        (∀ j, j < b.w → r.getLsbD j =
          if j = b.index then b.op.new ((b.unit.read b.w s).getLsbD j) else (b.unit.read b.w s).getLsbD j) ∧
        WritesOnly b.unit r s t) ∧
      DrawnApart [t.flags.of, t.flags.sf, t.flags.zf, t.flags.af, t.flags.pf] s t ∧ Advances i s t) ∧
    MemFaults i s b.use

/-- With a memory base and an offset `x` in a register the selected bit is bit `x mod 8` of the byte at
`linear + floor(x / 8)` (R143). -/
def Obligations.BitStringInBytes : Prop :=
  ∀ (i : Instr) (s : State) (b : BitView) (a : Dword) (x : BitVec b.w), bitView i s = some b → b.base = .mem a →
    b.off = .inl x →
    (b.unit.read b.w s).getLsbD b.index =
      (s.byteAt (a + BitVec.ofInt 32 (x.toInt / 8))).getLsbD (x.toInt % 8).toNat

/-! ### BSF, BSR (42_bit_scan.md) -/

/-- The bit scans: the index of the lowest or highest set bit with ZF cleared, or a drawn destination with ZF set; the
other five flags drawn, each on its own (R161, R162). -/
def Obligations.BitScanResult : Prop :=
  ∀ (i : Instr) (s : State) (b : ScanView), scanView i s = some b →
    (b.use.ready s → ∃ t, exec i s = .next t ∧ t.mem = s.mem ∧
      (b.src.read b.w s = 0 → t.flags.zf = true ∧
        ∃ r : BitVec b.w,
          DrawnWordApart r [t.flags.of, t.flags.sf, t.flags.af, t.flags.pf, t.flags.cf] s t ∧
          WritesOnly (.reg b.dst) r s t) ∧
      (b.src.read b.w s ≠ 0 → t.flags.zf = false ∧ ∃ k, k < b.w ∧ (b.src.read b.w s).getLsbD k = true ∧
        (∀ j, j < b.w → (if b.fromTop then k < j else j < k) → (b.src.read b.w s).getLsbD j = false) ∧
        WritesOnly (.reg b.dst) (BitVec.ofNat b.w k) s t ∧
        DrawnApart [t.flags.of, t.flags.sf, t.flags.af, t.flags.pf, t.flags.cf] s t) ∧
      Advances i s t) ∧ MemFaults i s b.use

/-! ### Shifts (43_shift.md) -/

/-- SHL (SAL), all six forms and every count (R172, R173, R176, R177, R180). -/
def Obligations.ShlResult : Prop :=
  ∀ (i : Instr) (s : State) (b : CountView), countView i s = some b → b.op = .shl → Memory.wf s.mem = true →
    (b.use.ready s → b.c = 0 → exec i s = .next { s with eip := s.eip + BitVec.ofNat 32 i.length }) ∧
    (b.use.ready s → b.c ≠ 0 → ∃ t, exec i s = .next t ∧
      (∃ r : BitVec b.w, r.toNat = (b.dst.read b.w s).toNat * 2 ^ b.c % 2 ^ b.w ∧
        WritesOnly b.dst r s t ∧ HasSzp r t.flags ∧
        (b.c = 1 → t.flags.of = ((b.dst.read b.w s).msb ^^ r.msb))) ∧
      (b.c < b.w → t.flags.cf = (b.dst.read b.w s).getLsbD (b.w - b.c)) ∧
      (b.c = 1 → Drawn t.flags.af s t) ∧
      (b.c ≠ 1 → b.c < b.w → DrawnApart [t.flags.of, t.flags.af] s t) ∧
      (b.w ≤ b.c → DrawnApart [t.flags.cf, t.flags.of, t.flags.af] s t) ∧
      Advances i s t) ∧ MemFaults i s b.use

/-- SHR, all six forms and every count (R172, R174, R176, R177, R180). -/
def Obligations.ShrResult : Prop :=
  ∀ (i : Instr) (s : State) (b : CountView), countView i s = some b → b.op = .shr → Memory.wf s.mem = true →
    (b.use.ready s → b.c = 0 → exec i s = .next { s with eip := s.eip + BitVec.ofNat 32 i.length }) ∧
    (b.use.ready s → b.c ≠ 0 → ∃ t, exec i s = .next t ∧
      (∃ r : BitVec b.w, r.toNat = (b.dst.read b.w s).toNat / 2 ^ b.c ∧
        WritesOnly b.dst r s t ∧ HasSzp r t.flags ∧
        (b.c = 1 → t.flags.of = ((b.dst.read b.w s).msb ^^ r.msb))) ∧
      (b.c < b.w → t.flags.cf = (b.dst.read b.w s).getLsbD (b.c - 1)) ∧
      (b.c = 1 → Drawn t.flags.af s t) ∧
      (b.c ≠ 1 → b.c < b.w → DrawnApart [t.flags.of, t.flags.af] s t) ∧
      (b.w ≤ b.c → DrawnApart [t.flags.cf, t.flags.of, t.flags.af] s t) ∧
      Advances i s t) ∧ MemFaults i s b.use

/-- SAR, all six forms and every count: the signed quotient by `2^c` rounded toward negative infinity, which for a count
at or above the width is all copies of the sign bit (R172, R175, R176, R177, R180). -/
def Obligations.SarResult : Prop :=
  ∀ (i : Instr) (s : State) (b : CountView), countView i s = some b → b.op = .sar → Memory.wf s.mem = true →
    (b.use.ready s → b.c = 0 → exec i s = .next { s with eip := s.eip + BitVec.ofNat 32 i.length }) ∧
    (b.use.ready s → b.c ≠ 0 → ∃ t, exec i s = .next t ∧
      (∃ r : BitVec b.w, r.toInt = (b.dst.read b.w s).toInt / 2 ^ b.c ∧
        WritesOnly b.dst r s t ∧ HasSzp r t.flags) ∧
      (b.c < b.w → t.flags.cf = (b.dst.read b.w s).getLsbD (b.c - 1)) ∧
      (b.w ≤ b.c → t.flags.cf = (b.dst.read b.w s).msb) ∧
      (b.c = 1 → t.flags.of = false ∧ Drawn t.flags.af s t) ∧
      (b.c ≠ 1 → DrawnApart [t.flags.of, t.flags.af] s t) ∧ Advances i s t) ∧ MemFaults i s b.use

/-- The law of SAR as a division: its result is the quotient rounded toward negative infinity, and CF holds the
high-order bit of the non-negative remainder (R178). -/
def Obligations.SarIsFloorDivision : Prop :=
  ∀ (w c : Nat) (v : BitVec w) (f : Bool), 1 ≤ c → c < w →
    (repeatBit sarBit c v f).1.toInt = Int.floor ((v.toInt : ℚ) / 2 ^ c) ∧
    v.toInt - (repeatBit sarBit c v f).1.toInt * 2 ^ c = (v.extractLsb' 0 c).toNat ∧
    (repeatBit sarBit c v f).2 = (v.extractLsb' 0 c).msb

/-- SAR of a dividend, with `2^N - 1` added where it is negative, gives IDIV's quotient by `2^N` (R179; the sequence of
Figure 3-9 itself is lost, this is the law it illustrates). -/
def Obligations.SarWithBiasIsDivision : Prop :=
  ∀ (x : BitVec 32) (n : Nat) (f : Bool), 0 < n → n < 32 →
    (repeatBit sarBit n (if 0 ≤ x.toInt then x else x + BitVec.ofNat 32 (2 ^ n - 1)) f).1.toInt =
      x.toInt.tdiv (2 ^ n)

/-! ### Double shifts (44_double_shift.md) -/

/-- SHLD and SHRD, all four forms and every count (R191 to R193). -/
def Obligations.DoubleShiftResult : Prop :=
  ∀ (i : Instr) (s : State) (b : DoubleView), doubleView i s = some b → Memory.wf s.mem = true →
    (b.use.ready s → b.c = 0 → exec i s = .next { s with eip := s.eip + BitVec.ofNat 32 i.length }) ∧
    (b.use.ready s → b.c ≠ 0 → b.c < b.w → ∃ t, exec i s = .next t ∧
      (∃ r : BitVec b.w,
        (∀ j, j < b.w → r.getLsbD j =
          if b.left then
            (if j < b.c then b.src.getLsbD (b.w - b.c + j) else (b.dst.read b.w s).getLsbD (j - b.c))
          else
            (if j < b.w - b.c then (b.dst.read b.w s).getLsbD (j + b.c) else b.src.getLsbD (j + b.c - b.w))) ∧
        WritesOnly b.dst r s t ∧ HasSzp r t.flags) ∧
      t.flags.cf = (b.dst.read b.w s).getLsbD (if b.left then b.w - b.c else b.c - 1) ∧
      DrawnApart [t.flags.of, t.flags.af] s t ∧ Advances i s t) ∧
    (b.use.ready s → b.w ≤ b.c → ∃ t, exec i s = .next t ∧
      (∃ r : BitVec b.w,
        DrawnWordApart r [t.flags.of, t.flags.sf, t.flags.zf, t.flags.af, t.flags.pf, t.flags.cf] s t ∧
        WritesOnly b.dst r s t) ∧
      Advances i s t) ∧ MemFaults i s b.use

/-- SHLD EDX, EAX, c and then SHL EAX, c shift the 64-bit value EDX:EAX left by c (R194). -/
def Obligations.ShldThenShlShifts64 : Prop :=
  ∀ (p q : Marks) (c : Byte) (s : State), 1 ≤ c.toNat → c.toNat ≤ 31 →
    ∃ t u, exec (.shldRmvRvImm8 p .w32 (.reg .edx) .eax c) s = .next t ∧
      exec (.shlRmvImm8 q .w32 (.reg .eax) c) t = .next u ∧
      u.regs.edx ++ u.regs.eax = (s.regs.edx ++ s.regs.eax) <<< c.toNat

/-! ### Rotates (45_rotate.md) -/

/-- ROL and ROR, all twelve forms and every count: the operand rotated by the count modulo the width, CF the last bit
moved, OF on a single-bit rotate only (R201 to R203, R206). That CF is that bit at counts of the width or more too, where
R207 also allows a draw, is the model's choice, log 21. -/
def Obligations.RotateResult : Prop :=
  ∀ (i : Instr) (s : State) (b : CountView), countView i s = some b → (b.op = .rol ∨ b.op = .ror) →
    Memory.wf s.mem = true →
    (b.use.ready s → b.c = 0 → exec i s = .next { s with eip := s.eip + BitVec.ofNat 32 i.length }) ∧
    (b.use.ready s → b.c ≠ 0 → ∃ t, exec i s = .next t ∧
      (∃ r : BitVec b.w,
        r = (if b.op = .rol then (b.dst.read b.w s).rotateLeft (b.c % b.w)
          else (b.dst.read b.w s).rotateRight (b.c % b.w)) ∧
        WritesOnly b.dst r s t ∧
        t.flags.cf = (if b.op = .rol then r.getLsbD 0 else r.msb) ∧
        (b.c = 1 → t.flags.of = ((b.dst.read b.w s).msb ^^ r.msb))) ∧
      (b.c ≠ 1 → Drawn t.flags.of s t) ∧
      t.flags.sf = s.flags.sf ∧ t.flags.zf = s.flags.zf ∧ t.flags.af = s.flags.af ∧ t.flags.pf = s.flags.pf ∧
      Advances i s t) ∧ MemFaults i s b.use

/-- RCL and RCR, all twelve forms and every count: CF and operand rotated together as one value of width w+1, CF being
its high-order bit for RCL and its low-order bit for RCR (R201, R204 to R206; the end of R204 and all of R205 are the
spec's own completion of the source, D25). That CF is that bit at counts of the width or more too, where R207 also allows
a draw, is the model's choice, log 21. -/
def Obligations.RotateThroughCarryResult : Prop :=
  ∀ (i : Instr) (s : State) (b : CountView), countView i s = some b → (b.op = .rcl ∨ b.op = .rcr) →
    Memory.wf s.mem = true →
    (b.use.ready s → b.c = 0 → exec i s = .next { s with eip := s.eip + BitVec.ofNat 32 i.length }) ∧
    (b.use.ready s → b.c ≠ 0 → ∃ t, exec i s = .next t ∧
      (∃ r : BitVec b.w,
        (b.op = .rcl → BitVec.ofBool t.flags.cf ++ r =
          (BitVec.ofBool s.flags.cf ++ b.dst.read b.w s).rotateLeft (b.c % (b.w + 1))) ∧
        (b.op = .rcr → r ++ BitVec.ofBool t.flags.cf =
          (b.dst.read b.w s ++ BitVec.ofBool s.flags.cf).rotateRight (b.c % (b.w + 1))) ∧
        WritesOnly b.dst r s t ∧
        (b.c = 1 → t.flags.of = ((b.dst.read b.w s).msb ^^ r.msb))) ∧
      (b.c ≠ 1 → Drawn t.flags.of s t) ∧
      t.flags.sf = s.flags.sf ∧ t.flags.zf = s.flags.zf ∧ t.flags.af = s.flags.af ∧ t.flags.pf = s.flags.pf ∧
      Advances i s t) ∧ MemFaults i s b.use

/-- A rotate through carry by w+1 places is a full turn of operand and CF: both are what they were (R207; that CF is kept
there and not drawn is the model's choice, log 21). OF, which R207 draws at such a count, is not spoken of. -/
def Obligations.CarryRotateFullTurn : Prop :=
  ∀ (w : Nat) (v : BitVec w) (f : Bool), 0 < w →
    repeatBit rclBit (w + 1) v f = (v, f) ∧ repeatBit rcrBit (w + 1) v f = (v, f)

/-! ### SETcc, JC, JNC, IDIV (46_setcc_and_referenced.md) -/

/-- The sixteen SETcc: the byte 1 or 0 by R99's table of conditions, no flag changed, the operand not read (R221, R222). -/
def Obligations.SetResult : Prop :=
  ∀ (i : Instr) (s : State) (cc : Nat) (x : Place), setView i s = some (cc, x) → Memory.wf s.mem = true →
    (x.writable 8 s = true → ∃ t, exec i s = .next t ∧
      WritesOnly x (if condTable cc s.flags then 1#8 else 0#8) s t ∧ t.flags = s.flags ∧ Advances i s t) ∧
    MemFaults i s ⟨x, 8, false, true⟩

/-- JC and JNC, all four forms: past the instruction when CF is not the one asked for, else to `next + rel`, taken modulo
2^16 at operand size 16; nothing but EIP changes (R233 to R235). A sum outside the 32-bit range is another statement. -/
def Obligations.JumpResult : Prop :=
  ∀ (i : Instr) (s : State) (b : JumpView), jumpView i = some b →
    (s.flags.cf ≠ b.onCarry → exec i s = .next { s with eip := s.eip + BitVec.ofNat 32 i.length }) ∧
    (s.flags.cf = b.onCarry →
      0 ≤ ((s.eip + BitVec.ofNat 32 i.length).toNat : Int) + b.rel →
      ((s.eip + BitVec.ofNat 32 i.length).toNat : Int) + b.rel < 2 ^ 32 →
      ∃ e : Dword, exec i s = .next { s with eip := e } ∧
        (e.toNat : Int) = if b.v = .w16 then (((s.eip + BitVec.ofNat 32 i.length).toNat : Int) + b.rel) % 2 ^ 16
          else ((s.eip + BitVec.ofNat 32 i.length).toNat : Int) + b.rel)

/-- A taken jump whose target falls outside the 32-bit address range is refused (10_state.md R25; log 13: the model
applies it to the sum before it is cut to 16 bits). -/
def Obligations.JumpWrapRefused : Prop :=
  ∀ (i : Instr) (s : State) (b : JumpView), jumpView i = some b → s.flags.cf = b.onCarry →
    (((s.eip + BitVec.ofNat 32 i.length).toNat : Int) + b.rel < 0 ∨
      2 ^ 32 ≤ ((s.eip + BitVec.ofNat 32 i.length).toNat : Int) + b.rel) →
    exec i s = .refused .eipWrap

/-- IDIV, both forms: quotient toward zero and remainder in their registers and six flags drawn apart, or DivideError on a
zero divisor or a quotient that does not fit (R230, R231). A quotient of exactly `-2^(w-1)` does one or the other, by a
drawn bit: the model's choice, log 16, between the outcomes that R231 admits (D27). -/
def Obligations.DivideResult : Prop :=
  ∀ (i : Instr) (s : State) (b : DivideView), divideView i s = some b →
    (b.use.ready s → b.divisor s ≠ 0 → fits b.w ((b.dividend s).tdiv (b.divisor s)) →
      (b.dividend s).tdiv (b.divisor s) ≠ -2 ^ (b.w - 1) →
      ∃ t, exec i s = .next t ∧ b.Done i s t) ∧
    (b.use.ready s → b.divisor s = 0 → exec i s = .fault .divideError) ∧
    (b.use.ready s → b.divisor s ≠ 0 → ¬ fits b.w ((b.dividend s).tdiv (b.divisor s)) →
      exec i s = .fault .divideError) ∧
    (b.use.ready s → b.divisor s ≠ 0 → (b.dividend s).tdiv (b.divisor s) = -2 ^ (b.w - 1) →
      exec i s = .fault .divideError ∨ ∃ t, exec i s = .next t ∧ b.Done i s t) ∧
    MemFaults i s b.use

/-! ### MEM_ADMIT (00_scope.md) -/

/-- MEM_ADMIT IS AN ARGUMENT: whatever predicate on the address, the size and the kind of an access a launch gives, some
list of grants admits exactly those accesses of the sizes the machine makes (R7; that it is held as such a list is the
model's choice, log 5). -/
def Obligations.AnyAdmissionPredicate : Prop :=
  ∀ allowed : Dword → Nat → AccessKind → Bool, ∃ grants : List Grant,
    ∀ (s : State) (a : Dword) (n : Nat) (k : AccessKind), n ∈ [1, 2, 4] →
      State.admits { s with params := { s.params with grants := grants } } a n k = allowed a n k
end

