-- ==== Sys2Proof/Laws/State.lean ====
section
/-! SUPPORT. One lemma per field for each update of State, so that no later proof unfolds a record update. -/

namespace Sys2Proof.Machine

variable (s : State) (f : Flags) (drawn len : Nat)

@[simp] theorem State.finish_regs : (s.finish f drawn len).regs = s.regs := rfl
@[simp] theorem State.finish_mem : (s.finish f drawn len).mem = s.mem := rfl
@[simp] theorem State.finish_flags : (s.finish f drawn len).flags = f := rfl
@[simp] theorem State.finish_draws : (s.finish f drawn len).draws = s.draws + drawn := rfl
@[simp] theorem State.finish_params : (s.finish f drawn len).params = s.params := rfl
@[simp] theorem State.finish_eip : (s.finish f drawn len).eip = s.eip + BitVec.ofNat 32 len := rfl

@[simp] theorem State.finish_byteAt (a : Dword) : (s.finish f drawn len).byteAt a = s.byteAt a := rfl
@[simp] theorem State.finish_admits (a : Dword) (n : Nat) (k : AccessKind) :
    (s.finish f drawn len).admits a n k = s.admits a n k := rfl
@[simp] theorem State.finish_inText (a : Dword) : (s.finish f drawn len).inText a = s.inText a := rfl

variable {w : Nat} (v : BitVec w)

@[simp] theorem Place.write_eip (x : Place) : (x.write v s).eip = s.eip := by cases x <;> rfl
@[simp] theorem Place.write_flags (x : Place) : (x.write v s).flags = s.flags := by cases x <;> rfl
@[simp] theorem Place.write_draws (x : Place) : (x.write v s).draws = s.draws := by cases x <;> rfl
@[simp] theorem Place.write_params (x : Place) : (x.write v s).params = s.params := by cases x <;> rfl

@[simp] theorem Place.write_byteReg_mem (r : Reg8) : (Place.write (.byteReg r) v s).mem = s.mem := rfl
@[simp] theorem Place.write_reg_mem (r : Reg) : (Place.write (.reg r) v s).mem = s.mem := rfl
@[simp] theorem Place.write_mem_regs (a : Dword) : (Place.write (.mem a) v s).regs = s.regs := rfl
@[simp] theorem Place.write_byteReg_regs (r : Reg8) :
    (Place.write (.byteReg r) v s).regs = s.regs.set8 r (v.setWidth 8) := rfl
@[simp] theorem Place.write_reg_regs (r : Reg) : (Place.write (.reg r) v s).regs = s.regs.setW r v := rfl
@[simp] theorem Place.write_mem_mem (a : Dword) :
    (Place.write (.mem a) v s).mem = Memory.store s.mem a v := rfl

@[simp] theorem Place.read_finish (x : Place) (w : Nat) : x.read w (s.finish f drawn len) = x.read w s := by
  cases x <;> rfl

/-- Admission depends on the parameters alone. -/
theorem State.admits_congr {s t : State} (h : t.params = s.params) (a : Dword) (n : Nat) (k : AccessKind) :
    t.admits a n k = s.admits a n k := by
  simp only [State.admits, h]

/-- Exactly which accesses are admitted (00_scope.md R7). -/
theorem State.admits_iff {s : State} {a : Dword} {n : Nat} {k : AccessKind} :
    s.admits a n k = true ↔
      ∃ g ∈ s.params.grants, (k ∈ g.kinds ∧ n ∈ g.sizes) ∧ (a - g.first).toNat < g.count := by
  simp [State.admits, Grant.admits]

/-- Where the program text is depends on the parameters alone. -/
theorem State.inText_congr {s t : State} (h : t.params = s.params) (off : Dword) :
    t.inText off = s.inText off := by
  simp only [State.inText, h]

/-- Linear addresses depend on the parameters alone. -/
theorem State.linear_congr {s t : State} (h : t.params = s.params) (g : Seg) (off : Dword) :
    t.linear g off = s.linear g off := by
  simp only [State.linear, h]

variable (code : List Byte)

@[simp] theorem State.load_regs : (s.load code len).regs = s.regs := rfl
@[simp] theorem State.load_eip : (s.load code len).eip = s.eip := rfl
@[simp] theorem State.load_flags : (s.load code len).flags = s.flags := rfl
@[simp] theorem State.load_draws : (s.load code len).draws = s.draws := rfl
@[simp] theorem State.load_sizes : (s.load code len).params.sizes = s.params.sizes := rfl
@[simp] theorem State.load_grants : (s.load code len).params.grants =
    ⟨s.codeAddr s.eip, code.length, [1], [.fetch]⟩ :: s.params.grants := rfl
@[simp] theorem State.load_textBase : (s.load code len).params.textBase = s.eip := rfl

end Sys2Proof.Machine
end

