-- ==== Sys2Proof/Laws/Memory.lean ====
section
/-! SUPPORT. The laws of memory: reading after writing one byte, the canonical form, and loads and stores of several
bytes. -/

namespace Sys2Proof.Machine

/-! ### One byte -/

/-- Below the first listed address every byte is the unlisted one. -/
theorem Memory.byte_below {lo : Nat} {m : Memory} (h : Memory.wfFrom lo m = true) {a : Nat} (ha : a < lo) :
    Memory.byte m a = unlistedByte := by
  induction m generalizing lo with
  | nil => rfl
  | cons c m ih =>
    simp only [Memory.wfFrom, Bool.and_eq_true, decide_eq_true_eq] at h
    have hne : a ≠ c.1 := by omega
    simp only [Memory.byte, hne, if_false]
    exact ih h.2 (by omega)

/-- A read after a write of one byte: the written address gives the written byte, every other what it gave. -/
theorem Memory.byte_set {lo : Nat} {m : Memory} (h : Memory.wfFrom lo m = true) (a : Nat) (v : Byte) (b : Nat) :
    Memory.byte (Memory.set m a v) b = if b = a then v else Memory.byte m b := by
  induction m generalizing lo with
  | nil =>
    by_cases hv : v = unlistedByte <;> by_cases hb : b = a <;> simp [Memory.set, Memory.byte, hv, hb]
  | cons c m ih =>
    simp only [Memory.wfFrom, Bool.and_eq_true, decide_eq_true_eq] at h
    have hc : Memory.wfFrom c.1 (c :: m) = true := by
      simp only [Memory.wfFrom, Bool.and_eq_true, decide_eq_true_eq]
      exact ⟨⟨⟨le_refl _, h.1.1.2⟩, h.1.2⟩, h.2⟩
    rcases Nat.lt_trichotomy a c.1 with hlt | heq | hgt
    · by_cases hv : v = unlistedByte
      · have : Memory.set (c :: m) a v = c :: m := by simp [Memory.set, hlt, hv]
        rw [this]
        by_cases hb : b = a
        · rw [if_pos hb, hb, hv]; exact Memory.byte_below hc hlt
        · rw [if_neg hb]
      · have : Memory.set (c :: m) a v = (a, v) :: c :: m := by simp [Memory.set, hlt, hv]
        rw [this]; rfl
    · subst heq
      by_cases hb : b = c.1
      · subst hb
        by_cases hv : v = unlistedByte
        · simp only [Memory.set, lt_irrefl, if_false, if_true, hv]
          exact Memory.byte_below h.2 (by omega)
        · simp [Memory.set, hv, Memory.byte]
      · by_cases hv : v = unlistedByte <;> simp [Memory.set, hv, Memory.byte, hb]
    · have h1 : ¬ a < c.1 := by omega
      have h2 : a ≠ c.1 := by omega
      simp only [Memory.set, h1, h2, if_false, Memory.byte]
      rw [ih h.2]
      by_cases hb : b = c.1
      · have : b ≠ a := by omega
        simp only [hb, if_true]
        rw [if_neg (by omega)]
      · simp only [hb, if_false]

/-- Writing one byte below 2^32 keeps the canonical form. -/
theorem Memory.wfFrom_set {lo : Nat} {m : Memory} (h : Memory.wfFrom lo m = true) {a : Nat} (hlo : lo ≤ a)
    (ha : a < 2 ^ 32) (v : Byte) : Memory.wfFrom lo (Memory.set m a v) = true := by
  induction m generalizing lo with
  | nil =>
    simp only [Memory.set]
    split_ifs with hv
    · rfl
    · simp [Memory.wfFrom, hlo, hv]; omega
  | cons c m ih =>
    simp only [Memory.wfFrom, Bool.and_eq_true, decide_eq_true_eq] at h
    obtain ⟨⟨⟨h1, h2⟩, h3⟩, h4⟩ := h
    simp only [Memory.set]
    split_ifs with hlt hv heq hv
    · simp only [Memory.wfFrom, Bool.and_eq_true, decide_eq_true_eq]; exact ⟨⟨⟨h1, h2⟩, h3⟩, h4⟩
    · simp only [Memory.wfFrom, Bool.and_eq_true, decide_eq_true_eq]
      exact ⟨⟨⟨hlo, ha⟩, by simpa using hv⟩, ⟨⟨by omega, h2⟩, h3⟩, h4⟩
    · subst heq
      clear ih
      cases m with
      | nil => rfl
      | cons d m =>
        simp only [Memory.wfFrom, Bool.and_eq_true, decide_eq_true_eq] at h4 ⊢
        exact ⟨⟨⟨by omega, h4.1.1.2⟩, h4.1.2⟩, h4.2⟩
    · subst heq
      simp only [Memory.wfFrom, Bool.and_eq_true, decide_eq_true_eq]
      exact ⟨⟨⟨h1, h2⟩, by simpa using hv⟩, h4⟩
    · simp only [Memory.wfFrom, Bool.and_eq_true, decide_eq_true_eq]
      exact ⟨⟨⟨h1, h2⟩, h3⟩, ih h4 (by omega)⟩

/-- Writing a byte at a linear address keeps the canonical form. -/
theorem Memory.wf_set {m : Memory} (h : Memory.wf m = true) (a : Dword) (v : Byte) :
    Memory.wf (Memory.set m a.toNat v) = true :=
  Memory.wfFrom_set h (Nat.zero_le _) a.isLt v

/-- Memories in canonical form that read the same everywhere are the same list. -/
theorem Memory.ext_of_byte {lo : Nat} {m n : Memory} (hm : Memory.wfFrom lo m = true) (hn : Memory.wfFrom lo n = true)
    (h : ∀ a, Memory.byte m a = Memory.byte n a) : m = n := by
  induction m generalizing lo n with
  | nil =>
    cases n with
    | nil => rfl
    | cons d n =>
      have := h d.1
      simp [Memory.byte, Memory.wfFrom] at this hn
      exact absurd this.symm hn.1.2
  | cons c m ih =>
    cases n with
    | nil =>
      have := h c.1
      simp [Memory.byte, Memory.wfFrom] at this hm
      exact absurd this hm.1.2
    | cons d n =>
      simp only [Memory.wfFrom, Bool.and_eq_true, decide_eq_true_eq, Bool.not_eq_true', decide_eq_false_iff_not]
        at hm hn
      have hcd : c.1 = d.1 := by
        rcases Nat.lt_trichotomy c.1 d.1 with hlt | heq | hgt
        · have := h c.1
          have hne : c.1 ≠ d.1 := by omega
          simp only [Memory.byte, hne, if_true, if_false] at this
          rw [Memory.byte_below hn.2 (by omega)] at this
          exact absurd this hm.1.2
        · exact heq
        · have := h d.1
          have hne : d.1 ≠ c.1 := by omega
          simp only [Memory.byte, hne, if_true, if_false] at this
          rw [Memory.byte_below hm.2 (by omega)] at this
          exact absurd this.symm hn.1.2
      have hval : c.2 = d.2 := by
        have := h c.1
        simpa [Memory.byte, hcd] using this
      have htail : m = n := by
        refine ih hm.2 (by rw [hcd]; exact hn.2) fun a => ?_
        by_cases ha : a = c.1
        · rw [Memory.byte_below hm.2 (by omega), Memory.byte_below hn.2 (by omega)]
        · have := h a
          simpa [Memory.byte, ha, hcd ▸ ha] using this
      rw [htail, Prod.ext hcd hval]

/-! ### Several bytes -/

/-- A store keeps the canonical form. -/
theorem Memory.wf_storeNat {m : Memory} (h : Memory.wf m = true) (n : Nat) (a : Dword) (v : Nat) :
    Memory.wf (Memory.storeNat m n a v) = true := by
  induction n generalizing m a v with
  | zero => exact h
  | succ n ih => exact ih (Memory.wf_set h a _) _ _

/-- A store keeps the canonical form. -/
theorem Memory.wf_store {m : Memory} (h : Memory.wf m = true) {w : Nat} (a : Dword) (v : BitVec w) :
    Memory.wf (Memory.store m a v) = true :=
  Memory.wf_storeNat h _ _ _

/-- Code placed by a load keeps the canonical form. -/
theorem State.wf_placeCode {s : State} (h : Memory.wf s.mem = true) (bs : List Byte) (off : Dword) :
    Memory.wf (s.placeCode bs off) = true := by
  induction bs generalizing off with
  | nil => exact h
  | cons b bs ih => exact Memory.wf_set (ih _) _ _

/-- Writing an operand keeps the canonical form. -/
theorem Place.wf_write {s : State} (h : Memory.wf s.mem = true) (x : Place) {w : Nat} (v : BitVec w) :
    Memory.wf (x.write v s).mem = true := by
  cases x with
  | mem a => exact Memory.wf_store h a v
  | byteReg r => exact h
  | reg r => exact h

/-- Reset memory is in canonical form. -/
theorem State.reset_wf : Memory.wf State.reset.mem = true := rfl

/-- A store leaves every byte outside its `n` addresses alone. -/
theorem Memory.byte_storeNat_other {m : Memory} (h : Memory.wf m = true) (n : Nat) (a : Dword) (v : Nat) (b : Dword)
    (hn : n ≤ 2 ^ 32) (hb : n ≤ (b - a).toNat) :
    Memory.byte (Memory.storeNat m n a v) b.toNat = Memory.byte m b.toNat := by
  induction n generalizing m a v with
  | zero => rfl
  | succ n ih =>
    have hne : b ≠ a := by
      rintro rfl
      simp at hb
    have hsub : (b - (a + 1)).toNat + 1 = (b - a).toNat := by
      have : (b - a).toNat ≠ 0 := by
        intro h0; omega
      bv_omega
    rw [Memory.storeNat, ih (Memory.wf_set h a _) _ _ (by omega) (by omega), Memory.byte_set h]
    rw [if_neg (fun hh => hne (BitVec.eq_of_toNat_eq hh))]

/-- A store puts byte `k` of the number at the `k`-th address. -/
theorem Memory.byte_storeNat_same {m : Memory} (h : Memory.wf m = true) (n : Nat) (a : Dword) (v k : Nat)
    (hn : n ≤ 2 ^ 32) (hk : k < n) :
    Memory.byte (Memory.storeNat m n a v) (a + BitVec.ofNat 32 k).toNat = BitVec.ofNat 8 (v / 256 ^ k) := by
  induction n generalizing m a v k with
  | zero => omega
  | succ n ih =>
    rw [Memory.storeNat]
    cases k with
    | zero =>
      rw [Memory.byte_storeNat_other (Memory.wf_set h a _) n (a + 1) _ _ (by omega) (by bv_omega)]
      rw [Memory.byte_set h]
      simp
    | succ k =>
      have : a + BitVec.ofNat 32 (k + 1) = a + 1 + BitVec.ofNat 32 k := by
        rw [BitVec.add_assoc, BitVec.add_comm 1, BitVec.ofNat_add]; rfl
      rw [this, ih (Memory.wf_set h a _) _ _ _ (by omega) (by omega), Nat.div_div_eq_div_mul, pow_succ,
        Nat.mul_comm 256]

/-- A load depends on its bytes alone. -/
theorem Memory.loadNat_congr {m m' : Memory} (n : Nat) (a : Dword)
    (h : ∀ k, k < n → Memory.byte m (a + BitVec.ofNat 32 k).toNat = Memory.byte m' (a + BitVec.ofNat 32 k).toNat) :
    Memory.loadNat m n a = Memory.loadNat m' n a := by
  induction n generalizing a with
  | zero => rfl
  | succ n ih =>
    have h0 := h 0 (by omega)
    simp only [BitVec.add_zero] at h0
    rw [Memory.loadNat, Memory.loadNat, h0, ih (a + 1) fun k hk => ?_]
    have := h (k + 1) (by omega)
    rwa [BitVec.ofNat_add, BitVec.add_comm _ (BitVec.ofNat 32 1), ← BitVec.add_assoc] at this

end Sys2Proof.Machine
end

