-- ==== Sys2Proof/Laws/Registers.lean ====
section
/-! SUPPORT. The laws of the register file: whole registers, and the bits that a narrow write changes. -/

namespace Sys2Proof.Machine

/-- A read after a write of a whole register. -/
theorem Regs.get_set (g : Regs) (r q : Reg) (v : Dword) : (g.set r v).get q = if q = r then v else g.get q := by
  cases r <;> cases q <;> rfl

/-- The written register. -/
@[simp] theorem Regs.get_set_self (g : Regs) (r : Reg) (v : Dword) : (g.set r v).get r = v := by
  cases r <;> rfl

/-- Every other register. -/
theorem Regs.get_set_other (g : Regs) {r q : Reg} (v : Dword) (h : q ≠ r) : (g.set r v).get q = g.get q := by
  rw [Regs.get_set, if_neg h]

/-- Register files that read the same are the same. -/
theorem Regs.ext_of_get {g k : Regs} (h : ∀ r, g.get r = k.get r) : g = k := by
  cases g; cases k
  have h0 := h .eax
  have h1 := h .ecx
  have h2 := h .edx
  have h3 := h .ebx
  have h4 := h .esp
  have h5 := h .ebp
  have h6 := h .esi
  have h7 := h .edi
  simp only [Regs.get] at h0 h1 h2 h3 h4 h5 h6 h7
  subst h0 h1 h2 h3 h4 h5 h6 h7
  rfl

/-- The bits of an insertion: those of the field from `lo` on, the old ones elsewhere. -/
theorem getLsbD_insertBits {k : Nat} (old : Dword) (lo : Nat) (v : BitVec k) (hk : lo + k ≤ 32) (j : Nat) :
    (insertBits old lo v).getLsbD j = if lo ≤ j ∧ j < lo + k then v.getLsbD (j - lo) else old.getLsbD j := by
  by_cases hj : j < 32
  · by_cases h1 : lo ≤ j
    · by_cases h2 : j < lo + k
      · have h3 : j - lo < k := by omega
        have h4 : ¬ j < lo := by omega
        simp [insertBits, hj, h1, h2, h3, h4]
      · have h3 : ¬ j - lo < k := by omega
        have h4 : ¬ j < lo := by omega
        have h6 : v.getLsbD (j - lo) = false := BitVec.getLsbD_of_ge _ _ (by omega)
        simp [insertBits, hj, h2, h3, h4, h6]
    · have h4 : j < lo := by omega
      simp [insertBits, hj, h1, h4]
  · have h1 : ¬ (lo ≤ j ∧ j < lo + k) := by omega
    rw [if_neg h1, BitVec.getLsbD_of_ge _ _ (by omega), BitVec.getLsbD_of_ge _ _ (by omega)]

/-- Inserting all 32 bits replaces the register. -/
@[simp] theorem insertBits_full (old v : Dword) : insertBits old 0 v = v := by
  apply BitVec.eq_of_getLsbD_eq
  intro j hj
  rw [getLsbD_insertBits _ _ _ (by omega)]
  simp [hj]

/-- The written low bits of a register. -/
theorem Regs.getW_setW_self (g : Regs) {w : Nat} (hw : w ≤ 32) (r : Reg) (v : BitVec w) :
    (g.setW r v).getW w r = v := by
  apply BitVec.eq_of_getLsbD_eq
  intro j hj
  simp only [Regs.getW, Regs.setW, Regs.get_set_self, BitVec.getLsbD_setWidth]
  rw [getLsbD_insertBits _ _ _ (by omega)]
  simp [hj]

/-- The bits above a narrow write stay. -/
theorem Regs.getLsbD_setW_above (g : Regs) {w : Nat} (hw : w ≤ 32) (r : Reg) (v : BitVec w) {j : Nat} (hj : w ≤ j) :
    ((g.setW r v).get r).getLsbD j = (g.get r).getLsbD j := by
  simp only [Regs.setW, Regs.get_set_self]
  rw [getLsbD_insertBits _ _ _ (by omega), if_neg (by omega)]

/-- A narrow write leaves the other registers alone. -/
theorem Regs.get_setW_other (g : Regs) {w : Nat} {r q : Reg} (v : BitVec w) (h : q ≠ r) :
    (g.setW r v).get q = g.get q :=
  Regs.get_set_other g _ h

/-- A byte register lies inside its whole register. -/
theorem Reg8.low_le (r : Reg8) : Reg8.low r + 8 ≤ 32 := by cases r <;> decide

/-- The written byte register. -/
@[simp] theorem Regs.get8_set8_self (g : Regs) (r : Reg8) (v : Byte) : (g.set8 r v).get8 r = v := by
  apply BitVec.eq_of_getLsbD_eq
  intro j hj
  simp only [Regs.get8, Regs.set8, Regs.get_set_self, BitVec.getLsbD_extractLsb']
  rw [getLsbD_insertBits _ _ _ (Reg8.low_le r)]
  simp [hj]

/-- The other 24 bits of the register stay after a byte write. -/
theorem Regs.getLsbD_set8_outside (g : Regs) (r : Reg8) (v : Byte) {j : Nat}
    (hj : ¬ (Reg8.low r ≤ j ∧ j < Reg8.low r + 8)) :
    ((g.set8 r v).get (Reg8.whole r)).getLsbD j = (g.get (Reg8.whole r)).getLsbD j := by
  simp only [Regs.set8, Regs.get_set_self]
  rw [getLsbD_insertBits _ _ _ (Reg8.low_le r), if_neg hj]

/-- A byte write leaves the other registers alone. -/
theorem Regs.get_set8_other (g : Regs) {r : Reg8} {q : Reg} (v : Byte) (h : q ≠ Reg8.whole r) :
    (g.set8 r v).get q = g.get q :=
  Regs.get_set_other g _ h

end Sys2Proof.Machine
end

