-- ==== Sys2Proof/Laws/Access.lean ====
section
/-! SUPPORT. For each shared operation, once, everything it can do when it answers a next state. -/

namespace Sys2Proof.Machine

/-- An access goes on exactly when its read and its write are admitted. -/
theorem access_eq_next {x : Place} {w : Nat} {rd wr : Bool} {s t : State} {k : Out} :
    access x w rd wr s k = .next t ↔
      (rd = true → x.readable w s = true) ∧ (wr = true → x.writable w s = true) ∧ k = .next t := by
  cases x with
  | byteReg r => simp [access, Place.readable, Place.writable]
  | reg r => simp [access, Place.readable, Place.writable]
  | mem a =>
    cases rd <;> cases wr <;> cases h1 : s.hitsText a (w / 8) <;> cases h2 : s.admits a (w / 8) .read <;>
      cases h3 : s.admits a (w / 8) .write <;>
      simp [access, Place.readable, Place.writable, raise, h1, h2, h3]

/-- An access to a register goes on. -/
@[simp] theorem access_byteReg (r : Reg8) (w : Nat) (rd wr : Bool) (s : State) (k : Out) :
    access (.byteReg r) w rd wr s k = k := rfl

/-- An access to a register goes on. -/
@[simp] theorem access_reg (r : Reg) (w : Nat) (rd wr : Bool) (s : State) (k : Out) :
    access (.reg r) w rd wr s k = k := rfl

/-- An admitted access goes on. -/
theorem access_of_admitted {x : Place} {w : Nat} {rd wr : Bool} {s : State} (k : Out)
    (hr : rd = true → x.readable w s = true) (hw : wr = true → x.writable w s = true) :
    access x w rd wr s k = k := by
  cases x with
  | byteReg r => rfl
  | reg r => rfl
  | mem a =>
    cases rd <;> cases wr <;> simp_all [access, Place.readable, Place.writable]

variable {w : Nat} {s t : State}

/-- What AND, OR and XOR can do. -/
theorem logic_next {f : BitVec w → BitVec w → BitVec w} {dst : Place} {b : BitVec w} {len : Nat}
    (h : logic w f dst b len s = .next t) :
    dst.readable w s = true ∧ dst.writable w s = true ∧
      t = (dst.write (f (dst.read w s) b) s).finish (logicFlags (f (dst.read w s) b) s) 1 len := by
  obtain ⟨hr, hw, hk⟩ := access_eq_next.mp h
  exact ⟨hr rfl, hw rfl, by simpa using hk.symm⟩

/-- What AND, OR and XOR with an R/M source can do. -/
theorem logicFrom_next {f : BitVec w → BitVec w → BitVec w} {dst src : Place} {len : Nat}
    (h : logicFrom w f dst src len s = .next t) :
    src.readable w s = true ∧ logic w f dst (src.read w s) len s = .next t := by
  obtain ⟨hr, -, hk⟩ := access_eq_next.mp h
  exact ⟨hr rfl, hk⟩

/-- What NOT can do. -/
theorem complement_next {dst : Place} {len : Nat} (h : complement w dst len s = .next t) :
    dst.readable w s = true ∧ dst.writable w s = true ∧
      t = (dst.write (~~~dst.read w s) s).finish s.flags 0 len := by
  obtain ⟨hr, hw, hk⟩ := access_eq_next.mp h
  exact ⟨hr rfl, hw rfl, by simpa using hk.symm⟩

/-- What BT can do. -/
theorem bitTest_next {sel : Place × Nat} {len : Nat} (h : bitTest w sel len s = .next t) :
    sel.1.readable w s = true ∧ t = s.finish (bitTestFlags ((sel.1.read w s).getLsbD sel.2) s) 5 len := by
  obtain ⟨hr, -, hk⟩ := access_eq_next.mp h
  exact ⟨hr rfl, by simpa using hk.symm⟩

/-- What BTS, BTR and BTC can do. -/
theorem bitModify_next {f : BitVec w → BitVec w → BitVec w} {sel : Place × Nat} {len : Nat}
    (h : bitModify w f sel len s = .next t) :
    sel.1.readable w s = true ∧ sel.1.writable w s = true ∧
      t = (sel.1.write (f (sel.1.read w s) (1#w <<< sel.2)) s).finish
        (bitTestFlags ((sel.1.read w s).getLsbD sel.2) s) 5 len := by
  obtain ⟨hr, hw, hk⟩ := access_eq_next.mp h
  exact ⟨hr rfl, hw rfl, by simpa using hk.symm⟩

/-- What BSF and BSR can do. -/
theorem bitScan_next {find : BitVec w → Option Nat} {dst src : Place} {len : Nat}
    (h : bitScan w find dst src len s = .next t) :
    src.readable w s = true ∧
      ((find (src.read w s) = none ∧ t = (dst.write (s.undefW w 0) s).finish (bitScanFlags true s) 6 len) ∨
        ∃ k, find (src.read w s) = some k ∧
          t = (dst.write (BitVec.ofNat w k) s).finish (bitScanFlags false s) 6 len) := by
  obtain ⟨hr, -, hk⟩ := access_eq_next.mp h
  refine ⟨hr rfl, ?_⟩
  split at hk
  · next hf => exact .inl ⟨hf, by simpa using hk.symm⟩
  · next k hf => exact .inr ⟨k, hf, by simpa using hk.symm⟩

/-- What a shift can do. -/
theorem shift_next {g : BitVec w → Bool → BitVec w × Bool} {cfFree : Bool} {dst : Place} {c len : Nat}
    (h : shift w g cfFree dst c len s = .next t) :
    dst.readable w s = true ∧
      ((c = 0 ∧ t = s.finish s.flags 0 len) ∨
        (c ≠ 0 ∧ dst.writable w s = true ∧
          t = (dst.write (repeatBit g c (dst.read w s) s.flags.cf).1 s).finish
            (shiftFlags cfFree c (dst.read w s) (repeatBit g c (dst.read w s) s.flags.cf).1
              (repeatBit g c (dst.read w s) s.flags.cf).2 s) 3 len)) := by
  by_cases hc : c = 0
  · rw [shift, if_pos hc] at h
    obtain ⟨hr, -, hk⟩ := access_eq_next.mp h
    exact ⟨hr rfl, .inl ⟨hc, by simpa using hk.symm⟩⟩
  · rw [shift, if_neg hc] at h
    obtain ⟨hr, hw, hk⟩ := access_eq_next.mp h
    exact ⟨hr rfl, .inr ⟨hc, hw rfl, by simpa using hk.symm⟩⟩

/-- What a rotate can do. -/
theorem rotate_next {g : BitVec w → Bool → BitVec w × Bool} {dst : Place} {c len : Nat}
    (h : rotate w g dst c len s = .next t) :
    dst.readable w s = true ∧
      ((c = 0 ∧ t = s.finish s.flags 0 len) ∨
        (c ≠ 0 ∧ dst.writable w s = true ∧
          t = (dst.write (repeatBit g c (dst.read w s) s.flags.cf).1 s).finish
            (rotateFlags c (dst.read w s) (repeatBit g c (dst.read w s) s.flags.cf).1
              (repeatBit g c (dst.read w s) s.flags.cf).2 s) 1 len)) := by
  by_cases hc : c = 0
  · rw [rotate, if_pos hc] at h
    obtain ⟨hr, -, hk⟩ := access_eq_next.mp h
    exact ⟨hr rfl, .inl ⟨hc, by simpa using hk.symm⟩⟩
  · rw [rotate, if_neg hc] at h
    obtain ⟨hr, hw, hk⟩ := access_eq_next.mp h
    exact ⟨hr rfl, .inr ⟨hc, hw rfl, by simpa using hk.symm⟩⟩

/-- What a double shift can do. -/
theorem doubleShift_next {f : BitVec w → BitVec w → Nat → BitVec w × Bool} {dst : Place} {src : BitVec w} {c len : Nat}
    (h : doubleShift w f dst src c len s = .next t) :
    dst.readable w s = true ∧
      ((c = 0 ∧ t = s.finish s.flags 0 len) ∨
        (c ≠ 0 ∧ dst.writable w s = true ∧
          ((w ≤ c ∧ t = (dst.write (s.undefW w 0) s).finish (drawnFlags s) 7 len) ∨
            (c < w ∧ t = (dst.write (f (dst.read w s) src c).1 s).finish
              (doubleShiftFlags (f (dst.read w s) src c).1 (f (dst.read w s) src c).2 s) 2 len)))) := by
  by_cases hc : c = 0
  · rw [doubleShift, if_pos hc] at h
    obtain ⟨hr, -, hk⟩ := access_eq_next.mp h
    exact ⟨hr rfl, .inl ⟨hc, by simpa using hk.symm⟩⟩
  · rw [doubleShift, if_neg hc] at h
    obtain ⟨hr, hw, hk⟩ := access_eq_next.mp h
    refine ⟨hr rfl, .inr ⟨hc, hw rfl, ?_⟩⟩
    by_cases hwc : w ≤ c
    · rw [if_pos hwc] at hk
      exact .inl ⟨hwc, by simpa using hk.symm⟩
    · rw [if_neg hwc] at hk
      exact .inr ⟨by omega, by simpa using hk.symm⟩

/-- What SETcc can do. -/
theorem setByte_next {cc : Nat} {dst : Place} {len : Nat} (h : setByte cc dst len s = .next t) :
    dst.writable 8 s = true ∧
      t = (dst.write (if cond cc s.flags then 1#8 else 0#8) s).finish s.flags 0 len := by
  obtain ⟨-, hw, hk⟩ := access_eq_next.mp h
  exact ⟨hw rfl, by simpa using hk.symm⟩

/-- What a conditional jump can do. -/
theorem jumpIf_next {taken : Bool} {v : OpSize} {rel : Int} {len : Nat} (h : jumpIf taken v rel len s = .next t) :
    (taken = false ∧ t = s.finish s.flags 0 len) ∨
      (taken = true ∧ 0 ≤ ((s.eip + BitVec.ofNat 32 len).toNat : Int) + rel ∧
        ((s.eip + BitVec.ofNat 32 len).toNat : Int) + rel < 4294967296 ∧
        t = { s with eip := jumpTarget v (((s.eip + BitVec.ofNat 32 len).toNat : Int) + rel) }) := by
  cases taken with
  | false => exact .inl ⟨rfl, by simpa [jumpIf] using h.symm⟩
  | true =>
    simp only [jumpIf, if_true] at h
    split_ifs at h with hb
    exact .inr ⟨rfl, by omega, by omega, by simpa using h.symm⟩

/-- What IDIV can do: the divisor is not zero, the quotient fits, and at `-2^(w-1)` the drawn bit let it through. -/
theorem divide_next {src : Place} {len : Nat} (h : divide w src len s = .next t) :
    ∃ d n q : Int, d = (src.read w s).toInt ∧ n = dividend w s.regs ∧ q = n.tdiv d ∧
      src.readable w s = true ∧ d ≠ 0 ∧ -((2 ^ (w - 1) : Nat) : Int) ≤ q ∧ q ≤ ((2 ^ (w - 1) : Nat) : Int) - 1 ∧
      (q = -((2 ^ (w - 1) : Nat) : Int) → s.undef 0 = false) ∧
      t = State.finish { s with regs := putQuotient w q (n - q * d) s.regs } (drawnFlags s) 7 len := by
  obtain ⟨hr, -, hk⟩ := access_eq_next.mp h
  refine ⟨_, _, _, rfl, rfl, rfl, hr rfl, ?_⟩
  dsimp only at hk
  split_ifs at hk with h1 h2 h3
  · cases hk
  · cases hk
  · cases hk
  · refine ⟨h1, by omega, by omega, fun hq => ?_, by simpa using hk.symm⟩
    cases hu : s.undef 0 with
    | false => rfl
    | true => exact absurd ⟨hq, hu⟩ h3

end Sys2Proof.Machine
end

