-- ==== Sys2Proof/Laws/Decode.lean ====
section
/-! SUPPORT. Small lemmas of the decoder and the encoder. -/

namespace Sys2Proof

/-! ### Numbers of registers and scales -/

@[simp] theorem Reg.ofBits_toBits (r : Reg) : Reg.ofBits r.toBits = r := by cases r <;> rfl

@[simp] theorem Reg8.ofBits_toBits (r : Reg8) : Reg8.ofBits r.toBits = r := by cases r <;> rfl

@[simp] theorem Scale.ofBits_toBits (k : Scale) : Scale.ofBits k.toBits = k := by cases k <;> rfl

theorem Reg.toBits_ofBits (n : BitVec 3) : (Reg.ofBits n).toBits = n := by
  revert n; decide

theorem Reg8.toBits_ofBits (n : BitVec 3) : (Reg8.ofBits n).toBits = n := by
  revert n; decide

theorem Scale.toBits_ofBits (n : BitVec 2) : (Scale.ofBits n).toBits = n := by
  revert n; decide

@[simp] theorem RM.map_ofBits_bits8 (x : Rm8) : x.bits8.map Reg8.ofBits = x := by
  cases x <;> simp [RM.bits8, RM.map]

@[simp] theorem RM.map_ofBits_bitsv (x : Rmv) : x.bitsv.map Reg.ofBits = x := by
  cases x <;> simp [RM.bitsv, RM.map]

@[simp] theorem RM.mem?_bits8 (x : Rm8) : x.bits8.mem? = x.mem? := by cases x <;> rfl

@[simp] theorem RM.mem?_bitsv (x : Rmv) : x.bitsv.mem? = x.mem? := by cases x <;> rfl

/-! ### Bytes of words -/

@[simp] theorem take8_cons (b : Byte) (r : List Byte) : take8 (b :: r) = .ok (b, r) := rfl

@[simp] theorem take16_bytes16 (x : BitVec 16) (r : List Byte) : take16 (bytes16 x ++ r) = .ok (x, r) := by
  have h : x.extractLsb' 8 8 ++ x.extractLsb' 0 8 = x := by
    apply BitVec.eq_of_getLsbD_eq
    intro j hj
    simp only [BitVec.getLsbD_append, BitVec.getLsbD_extractLsb']
    by_cases h8 : j < 8
    · simp [h8]
    · have : j - 8 < 8 := by omega
      have h2 : 8 + (j - 8) = j := by omega
      simp [h8, this, h2]
  simp [bytes16, take16, h]

@[simp] theorem take32_bytes32 (x : BitVec 32) (r : List Byte) : take32 (bytes32 x ++ r) = .ok (x, r) := by
  have h : x.extractLsb' 24 8 ++ x.extractLsb' 16 8 ++ x.extractLsb' 8 8 ++ x.extractLsb' 0 8 = x := by
    apply BitVec.eq_of_getLsbD_eq
    intro j hj
    simp only [BitVec.getLsbD_append, BitVec.getLsbD_extractLsb']
    by_cases h8 : j < 8
    · simp [h8]
    · by_cases h16 : j - 8 < 8
      · have h2 : 8 + (j - 8) = j := by omega
        simp [h8, h16, h2]
      · by_cases h24 : j - 8 - 8 < 8
        · have h2 : 16 + (j - 8 - 8) = j := by omega
          simp [h8, h16, h24, h2]
        · have h3 : j - 8 - 8 - 8 < 8 := by omega
          have h2 : 24 + (j - 8 - 8 - 8) = j := by omega
          simp [h8, h16, h24, h3, h2]
  simp [bytes32, take32, h]

/-! ### Fields of the ModR/M and SIB bytes (30_encoding.md R85, R89) -/

@[simp] theorem modrmByte_mod (md : BitVec 2) (reg rm : BitVec 3) : (modrmByte md reg rm).extractLsb' 6 2 = md := by
  revert md reg rm; decide

@[simp] theorem modrmByte_reg (md : BitVec 2) (reg rm : BitVec 3) : (modrmByte md reg rm).extractLsb' 3 3 = reg := by
  revert md reg rm; decide

@[simp] theorem modrmByte_rm (md : BitVec 2) (reg rm : BitVec 3) : (modrmByte md reg rm).extractLsb' 0 3 = rm := by
  revert md reg rm; decide

/-- No opcode byte of the table is a mark, and none but 0F is 0F: a byte that is no mark ends the marks. -/
theorem takeMarks_of_not_mark {b : Byte} (h : markOf b = none) (bs : List Byte) (p : Marks) :
    takeMarks (b :: bs) p = .ok (p, b :: bs) := by
  simp [takeMarks, h]

/-- The kind of a segment's override byte. -/
@[simp] theorem markOf_markByte (g : Seg) : markOf g.markByte = some (.seg g) := by cases g <;> rfl

end Sys2Proof
end

