-- ==== Sys2Proof/Laws/PerInstr.lean ====
section
/-! SUPPORT. The families of lemmas with one lemma per constructor of Instr. -/

namespace Sys2Proof.Laws.BuildOfParts

/-- The decoder's second half gives back a term from the parts the encoder makes of it, when the term's operand size is
the one its marks select. -/
def Statement (i : Instr) : Prop :=
  ∀ z : Sizes, i.shape.sizeOk z = true → build z i.parts = .ok i

theorem orRm8R8 (p : Marks) (dst : Rm8) (src : Reg8) : Statement (.orRm8R8 p dst src) := by
  intro z h
  show Except.ok (Instr.orRm8R8 p (dst.bits8.map Reg8.ofBits) (Reg8.ofBits src.toBits)) = _
  rw [RM.map_ofBits_bits8, Reg8.ofBits_toBits]

theorem orRmvRv (p : Marks) (v : OpSize) (dst : Rmv) (src : Reg) : Statement (.orRmvRv p v dst src) := by
  intro z h
  have h : v = p.opsizeIn z := of_decide_eq_true h
  subst h
  show Except.ok (Instr.orRmvRv p (p.opsizeIn z) (dst.bitsv.map Reg.ofBits) (Reg.ofBits src.toBits)) = _
  rw [RM.map_ofBits_bitsv, Reg.ofBits_toBits]

theorem orR8Rm8 (p : Marks) (dst : Reg8) (src : Rm8) : Statement (.orR8Rm8 p dst src) := by
  intro z h
  show Except.ok (Instr.orR8Rm8 p (Reg8.ofBits dst.toBits) (src.bits8.map Reg8.ofBits)) = _
  rw [Reg8.ofBits_toBits, RM.map_ofBits_bits8]

theorem orRvRmv (p : Marks) (v : OpSize) (dst : Reg) (src : Rmv) : Statement (.orRvRmv p v dst src) := by
  intro z h
  have h : v = p.opsizeIn z := of_decide_eq_true h
  subst h
  show Except.ok (Instr.orRvRmv p (p.opsizeIn z) (Reg.ofBits dst.toBits) (src.bitsv.map Reg.ofBits)) = _
  rw [Reg.ofBits_toBits, RM.map_ofBits_bitsv]

theorem orAlImm8 (p : Marks) (imm : Byte) : Statement (.orAlImm8 p imm) := by
  intro z h
  rfl

theorem orEaxImmv (p : Marks) (imm : ImmV) : Statement (.orEaxImmv p imm) := by
  intro z h
  rfl

theorem orRm8Imm8 (p : Marks) (dst : Rm8) (imm : Byte) : Statement (.orRm8Imm8 p dst imm) := by
  intro z h
  show Except.ok (Instr.orRm8Imm8 p (dst.bits8.map Reg8.ofBits) imm) = _
  rw [RM.map_ofBits_bits8]

theorem orRmvImmv (p : Marks) (dst : Rmv) (imm : ImmV) : Statement (.orRmvImmv p dst imm) := by
  intro z h
  show Except.ok (Instr.orRmvImmv p (dst.bitsv.map Reg.ofBits) imm) = _
  rw [RM.map_ofBits_bitsv]

theorem orRmvImm8sx (p : Marks) (v : OpSize) (dst : Rmv) (imm : Byte) : Statement (.orRmvImm8sx p v dst imm) := by
  intro z h
  have h : v = p.opsizeIn z := of_decide_eq_true h
  subst h
  show Except.ok (Instr.orRmvImm8sx p (p.opsizeIn z) (dst.bitsv.map Reg.ofBits) imm) = _
  rw [RM.map_ofBits_bitsv]

theorem andRm8R8 (p : Marks) (dst : Rm8) (src : Reg8) : Statement (.andRm8R8 p dst src) := by
  intro z h
  show Except.ok (Instr.andRm8R8 p (dst.bits8.map Reg8.ofBits) (Reg8.ofBits src.toBits)) = _
  rw [RM.map_ofBits_bits8, Reg8.ofBits_toBits]

theorem andRmvRv (p : Marks) (v : OpSize) (dst : Rmv) (src : Reg) : Statement (.andRmvRv p v dst src) := by
  intro z h
  have h : v = p.opsizeIn z := of_decide_eq_true h
  subst h
  show Except.ok (Instr.andRmvRv p (p.opsizeIn z) (dst.bitsv.map Reg.ofBits) (Reg.ofBits src.toBits)) = _
  rw [RM.map_ofBits_bitsv, Reg.ofBits_toBits]

theorem andR8Rm8 (p : Marks) (dst : Reg8) (src : Rm8) : Statement (.andR8Rm8 p dst src) := by
  intro z h
  show Except.ok (Instr.andR8Rm8 p (Reg8.ofBits dst.toBits) (src.bits8.map Reg8.ofBits)) = _
  rw [Reg8.ofBits_toBits, RM.map_ofBits_bits8]

theorem andRvRmv (p : Marks) (v : OpSize) (dst : Reg) (src : Rmv) : Statement (.andRvRmv p v dst src) := by
  intro z h
  have h : v = p.opsizeIn z := of_decide_eq_true h
  subst h
  show Except.ok (Instr.andRvRmv p (p.opsizeIn z) (Reg.ofBits dst.toBits) (src.bitsv.map Reg.ofBits)) = _
  rw [Reg.ofBits_toBits, RM.map_ofBits_bitsv]

theorem andAlImm8 (p : Marks) (imm : Byte) : Statement (.andAlImm8 p imm) := by
  intro z h
  rfl

theorem andEaxImmv (p : Marks) (imm : ImmV) : Statement (.andEaxImmv p imm) := by
  intro z h
  rfl

theorem andRm8Imm8 (p : Marks) (dst : Rm8) (imm : Byte) : Statement (.andRm8Imm8 p dst imm) := by
  intro z h
  show Except.ok (Instr.andRm8Imm8 p (dst.bits8.map Reg8.ofBits) imm) = _
  rw [RM.map_ofBits_bits8]

theorem andRmvImmv (p : Marks) (dst : Rmv) (imm : ImmV) : Statement (.andRmvImmv p dst imm) := by
  intro z h
  show Except.ok (Instr.andRmvImmv p (dst.bitsv.map Reg.ofBits) imm) = _
  rw [RM.map_ofBits_bitsv]

theorem andRmvImm8sx (p : Marks) (v : OpSize) (dst : Rmv) (imm : Byte) : Statement (.andRmvImm8sx p v dst imm) := by
  intro z h
  have h : v = p.opsizeIn z := of_decide_eq_true h
  subst h
  show Except.ok (Instr.andRmvImm8sx p (p.opsizeIn z) (dst.bitsv.map Reg.ofBits) imm) = _
  rw [RM.map_ofBits_bitsv]

theorem xorRm8R8 (p : Marks) (dst : Rm8) (src : Reg8) : Statement (.xorRm8R8 p dst src) := by
  intro z h
  show Except.ok (Instr.xorRm8R8 p (dst.bits8.map Reg8.ofBits) (Reg8.ofBits src.toBits)) = _
  rw [RM.map_ofBits_bits8, Reg8.ofBits_toBits]

theorem xorRmvRv (p : Marks) (v : OpSize) (dst : Rmv) (src : Reg) : Statement (.xorRmvRv p v dst src) := by
  intro z h
  have h : v = p.opsizeIn z := of_decide_eq_true h
  subst h
  show Except.ok (Instr.xorRmvRv p (p.opsizeIn z) (dst.bitsv.map Reg.ofBits) (Reg.ofBits src.toBits)) = _
  rw [RM.map_ofBits_bitsv, Reg.ofBits_toBits]

theorem xorR8Rm8 (p : Marks) (dst : Reg8) (src : Rm8) : Statement (.xorR8Rm8 p dst src) := by
  intro z h
  show Except.ok (Instr.xorR8Rm8 p (Reg8.ofBits dst.toBits) (src.bits8.map Reg8.ofBits)) = _
  rw [Reg8.ofBits_toBits, RM.map_ofBits_bits8]

theorem xorRvRmv (p : Marks) (v : OpSize) (dst : Reg) (src : Rmv) : Statement (.xorRvRmv p v dst src) := by
  intro z h
  have h : v = p.opsizeIn z := of_decide_eq_true h
  subst h
  show Except.ok (Instr.xorRvRmv p (p.opsizeIn z) (Reg.ofBits dst.toBits) (src.bitsv.map Reg.ofBits)) = _
  rw [Reg.ofBits_toBits, RM.map_ofBits_bitsv]

theorem xorAlImm8 (p : Marks) (imm : Byte) : Statement (.xorAlImm8 p imm) := by
  intro z h
  rfl

theorem xorEaxImmv (p : Marks) (imm : ImmV) : Statement (.xorEaxImmv p imm) := by
  intro z h
  rfl

theorem xorRm8Imm8 (p : Marks) (dst : Rm8) (imm : Byte) : Statement (.xorRm8Imm8 p dst imm) := by
  intro z h
  show Except.ok (Instr.xorRm8Imm8 p (dst.bits8.map Reg8.ofBits) imm) = _
  rw [RM.map_ofBits_bits8]

theorem xorRmvImmv (p : Marks) (dst : Rmv) (imm : ImmV) : Statement (.xorRmvImmv p dst imm) := by
  intro z h
  show Except.ok (Instr.xorRmvImmv p (dst.bitsv.map Reg.ofBits) imm) = _
  rw [RM.map_ofBits_bitsv]

theorem xorRmvImm8sx (p : Marks) (v : OpSize) (dst : Rmv) (imm : Byte) : Statement (.xorRmvImm8sx p v dst imm) := by
  intro z h
  have h : v = p.opsizeIn z := of_decide_eq_true h
  subst h
  show Except.ok (Instr.xorRmvImm8sx p (p.opsizeIn z) (dst.bitsv.map Reg.ofBits) imm) = _
  rw [RM.map_ofBits_bitsv]

theorem notRm8 (p : Marks) (dst : Rm8) : Statement (.notRm8 p dst) := by
  intro z h
  show Except.ok (Instr.notRm8 p (dst.bits8.map Reg8.ofBits)) = _
  rw [RM.map_ofBits_bits8]

theorem notRmv (p : Marks) (v : OpSize) (dst : Rmv) : Statement (.notRmv p v dst) := by
  intro z h
  have h : v = p.opsizeIn z := of_decide_eq_true h
  subst h
  show Except.ok (Instr.notRmv p (p.opsizeIn z) (dst.bitsv.map Reg.ofBits)) = _
  rw [RM.map_ofBits_bitsv]

theorem btRmvRv (p : Marks) (v : OpSize) (base : Rmv) (off : Reg) : Statement (.btRmvRv p v base off) := by
  intro z h
  have h : v = p.opsizeIn z := of_decide_eq_true h
  subst h
  show Except.ok (Instr.btRmvRv p (p.opsizeIn z) (base.bitsv.map Reg.ofBits) (Reg.ofBits off.toBits)) = _
  rw [RM.map_ofBits_bitsv, Reg.ofBits_toBits]

theorem btRmvImm8 (p : Marks) (v : OpSize) (base : Rmv) (off : Byte) : Statement (.btRmvImm8 p v base off) := by
  intro z h
  have h : v = p.opsizeIn z := of_decide_eq_true h
  subst h
  show Except.ok (Instr.btRmvImm8 p (p.opsizeIn z) (base.bitsv.map Reg.ofBits) off) = _
  rw [RM.map_ofBits_bitsv]

theorem btsRmvRv (p : Marks) (v : OpSize) (base : Rmv) (off : Reg) : Statement (.btsRmvRv p v base off) := by
  intro z h
  have h : v = p.opsizeIn z := of_decide_eq_true h
  subst h
  show Except.ok (Instr.btsRmvRv p (p.opsizeIn z) (base.bitsv.map Reg.ofBits) (Reg.ofBits off.toBits)) = _
  rw [RM.map_ofBits_bitsv, Reg.ofBits_toBits]

theorem btsRmvImm8 (p : Marks) (v : OpSize) (base : Rmv) (off : Byte) : Statement (.btsRmvImm8 p v base off) := by
  intro z h
  have h : v = p.opsizeIn z := of_decide_eq_true h
  subst h
  show Except.ok (Instr.btsRmvImm8 p (p.opsizeIn z) (base.bitsv.map Reg.ofBits) off) = _
  rw [RM.map_ofBits_bitsv]

theorem btrRmvRv (p : Marks) (v : OpSize) (base : Rmv) (off : Reg) : Statement (.btrRmvRv p v base off) := by
  intro z h
  have h : v = p.opsizeIn z := of_decide_eq_true h
  subst h
  show Except.ok (Instr.btrRmvRv p (p.opsizeIn z) (base.bitsv.map Reg.ofBits) (Reg.ofBits off.toBits)) = _
  rw [RM.map_ofBits_bitsv, Reg.ofBits_toBits]

theorem btrRmvImm8 (p : Marks) (v : OpSize) (base : Rmv) (off : Byte) : Statement (.btrRmvImm8 p v base off) := by
  intro z h
  have h : v = p.opsizeIn z := of_decide_eq_true h
  subst h
  show Except.ok (Instr.btrRmvImm8 p (p.opsizeIn z) (base.bitsv.map Reg.ofBits) off) = _
  rw [RM.map_ofBits_bitsv]

theorem btcRmvRv (p : Marks) (v : OpSize) (base : Rmv) (off : Reg) : Statement (.btcRmvRv p v base off) := by
  intro z h
  have h : v = p.opsizeIn z := of_decide_eq_true h
  subst h
  show Except.ok (Instr.btcRmvRv p (p.opsizeIn z) (base.bitsv.map Reg.ofBits) (Reg.ofBits off.toBits)) = _
  rw [RM.map_ofBits_bitsv, Reg.ofBits_toBits]

theorem btcRmvImm8 (p : Marks) (v : OpSize) (base : Rmv) (off : Byte) : Statement (.btcRmvImm8 p v base off) := by
  intro z h
  have h : v = p.opsizeIn z := of_decide_eq_true h
  subst h
  show Except.ok (Instr.btcRmvImm8 p (p.opsizeIn z) (base.bitsv.map Reg.ofBits) off) = _
  rw [RM.map_ofBits_bitsv]

theorem bsfRvRmv (p : Marks) (v : OpSize) (dst : Reg) (src : Rmv) : Statement (.bsfRvRmv p v dst src) := by
  intro z h
  have h : v = p.opsizeIn z := of_decide_eq_true h
  subst h
  show Except.ok (Instr.bsfRvRmv p (p.opsizeIn z) (Reg.ofBits dst.toBits) (src.bitsv.map Reg.ofBits)) = _
  rw [Reg.ofBits_toBits, RM.map_ofBits_bitsv]

theorem bsrRvRmv (p : Marks) (v : OpSize) (dst : Reg) (src : Rmv) : Statement (.bsrRvRmv p v dst src) := by
  intro z h
  have h : v = p.opsizeIn z := of_decide_eq_true h
  subst h
  show Except.ok (Instr.bsrRvRmv p (p.opsizeIn z) (Reg.ofBits dst.toBits) (src.bitsv.map Reg.ofBits)) = _
  rw [Reg.ofBits_toBits, RM.map_ofBits_bitsv]

theorem rolRm8One (p : Marks) (dst : Rm8) : Statement (.rolRm8One p dst) := by
  intro z h
  show Except.ok (Instr.rolRm8One p (dst.bits8.map Reg8.ofBits)) = _
  rw [RM.map_ofBits_bits8]

theorem rolRmvOne (p : Marks) (v : OpSize) (dst : Rmv) : Statement (.rolRmvOne p v dst) := by
  intro z h
  have h : v = p.opsizeIn z := of_decide_eq_true h
  subst h
  show Except.ok (Instr.rolRmvOne p (p.opsizeIn z) (dst.bitsv.map Reg.ofBits)) = _
  rw [RM.map_ofBits_bitsv]

theorem rolRm8Cl (p : Marks) (dst : Rm8) : Statement (.rolRm8Cl p dst) := by
  intro z h
  show Except.ok (Instr.rolRm8Cl p (dst.bits8.map Reg8.ofBits)) = _
  rw [RM.map_ofBits_bits8]

theorem rolRmvCl (p : Marks) (v : OpSize) (dst : Rmv) : Statement (.rolRmvCl p v dst) := by
  intro z h
  have h : v = p.opsizeIn z := of_decide_eq_true h
  subst h
  show Except.ok (Instr.rolRmvCl p (p.opsizeIn z) (dst.bitsv.map Reg.ofBits)) = _
  rw [RM.map_ofBits_bitsv]

theorem rolRm8Imm8 (p : Marks) (dst : Rm8) (count : Byte) : Statement (.rolRm8Imm8 p dst count) := by
  intro z h
  show Except.ok (Instr.rolRm8Imm8 p (dst.bits8.map Reg8.ofBits) count) = _
  rw [RM.map_ofBits_bits8]

theorem rolRmvImm8 (p : Marks) (v : OpSize) (dst : Rmv) (count : Byte) : Statement (.rolRmvImm8 p v dst count) := by
  intro z h
  have h : v = p.opsizeIn z := of_decide_eq_true h
  subst h
  show Except.ok (Instr.rolRmvImm8 p (p.opsizeIn z) (dst.bitsv.map Reg.ofBits) count) = _
  rw [RM.map_ofBits_bitsv]

theorem rorRm8One (p : Marks) (dst : Rm8) : Statement (.rorRm8One p dst) := by
  intro z h
  show Except.ok (Instr.rorRm8One p (dst.bits8.map Reg8.ofBits)) = _
  rw [RM.map_ofBits_bits8]

theorem rorRmvOne (p : Marks) (v : OpSize) (dst : Rmv) : Statement (.rorRmvOne p v dst) := by
  intro z h
  have h : v = p.opsizeIn z := of_decide_eq_true h
  subst h
  show Except.ok (Instr.rorRmvOne p (p.opsizeIn z) (dst.bitsv.map Reg.ofBits)) = _
  rw [RM.map_ofBits_bitsv]

theorem rorRm8Cl (p : Marks) (dst : Rm8) : Statement (.rorRm8Cl p dst) := by
  intro z h
  show Except.ok (Instr.rorRm8Cl p (dst.bits8.map Reg8.ofBits)) = _
  rw [RM.map_ofBits_bits8]

theorem rorRmvCl (p : Marks) (v : OpSize) (dst : Rmv) : Statement (.rorRmvCl p v dst) := by
  intro z h
  have h : v = p.opsizeIn z := of_decide_eq_true h
  subst h
  show Except.ok (Instr.rorRmvCl p (p.opsizeIn z) (dst.bitsv.map Reg.ofBits)) = _
  rw [RM.map_ofBits_bitsv]

theorem rorRm8Imm8 (p : Marks) (dst : Rm8) (count : Byte) : Statement (.rorRm8Imm8 p dst count) := by
  intro z h
  show Except.ok (Instr.rorRm8Imm8 p (dst.bits8.map Reg8.ofBits) count) = _
  rw [RM.map_ofBits_bits8]

theorem rorRmvImm8 (p : Marks) (v : OpSize) (dst : Rmv) (count : Byte) : Statement (.rorRmvImm8 p v dst count) := by
  intro z h
  have h : v = p.opsizeIn z := of_decide_eq_true h
  subst h
  show Except.ok (Instr.rorRmvImm8 p (p.opsizeIn z) (dst.bitsv.map Reg.ofBits) count) = _
  rw [RM.map_ofBits_bitsv]

theorem rclRm8One (p : Marks) (dst : Rm8) : Statement (.rclRm8One p dst) := by
  intro z h
  show Except.ok (Instr.rclRm8One p (dst.bits8.map Reg8.ofBits)) = _
  rw [RM.map_ofBits_bits8]

theorem rclRmvOne (p : Marks) (v : OpSize) (dst : Rmv) : Statement (.rclRmvOne p v dst) := by
  intro z h
  have h : v = p.opsizeIn z := of_decide_eq_true h
  subst h
  show Except.ok (Instr.rclRmvOne p (p.opsizeIn z) (dst.bitsv.map Reg.ofBits)) = _
  rw [RM.map_ofBits_bitsv]

theorem rclRm8Cl (p : Marks) (dst : Rm8) : Statement (.rclRm8Cl p dst) := by
  intro z h
  show Except.ok (Instr.rclRm8Cl p (dst.bits8.map Reg8.ofBits)) = _
  rw [RM.map_ofBits_bits8]

theorem rclRmvCl (p : Marks) (v : OpSize) (dst : Rmv) : Statement (.rclRmvCl p v dst) := by
  intro z h
  have h : v = p.opsizeIn z := of_decide_eq_true h
  subst h
  show Except.ok (Instr.rclRmvCl p (p.opsizeIn z) (dst.bitsv.map Reg.ofBits)) = _
  rw [RM.map_ofBits_bitsv]

theorem rclRm8Imm8 (p : Marks) (dst : Rm8) (count : Byte) : Statement (.rclRm8Imm8 p dst count) := by
  intro z h
  show Except.ok (Instr.rclRm8Imm8 p (dst.bits8.map Reg8.ofBits) count) = _
  rw [RM.map_ofBits_bits8]

theorem rclRmvImm8 (p : Marks) (v : OpSize) (dst : Rmv) (count : Byte) : Statement (.rclRmvImm8 p v dst count) := by
  intro z h
  have h : v = p.opsizeIn z := of_decide_eq_true h
  subst h
  show Except.ok (Instr.rclRmvImm8 p (p.opsizeIn z) (dst.bitsv.map Reg.ofBits) count) = _
  rw [RM.map_ofBits_bitsv]

theorem rcrRm8One (p : Marks) (dst : Rm8) : Statement (.rcrRm8One p dst) := by
  intro z h
  show Except.ok (Instr.rcrRm8One p (dst.bits8.map Reg8.ofBits)) = _
  rw [RM.map_ofBits_bits8]

theorem rcrRmvOne (p : Marks) (v : OpSize) (dst : Rmv) : Statement (.rcrRmvOne p v dst) := by
  intro z h
  have h : v = p.opsizeIn z := of_decide_eq_true h
  subst h
  show Except.ok (Instr.rcrRmvOne p (p.opsizeIn z) (dst.bitsv.map Reg.ofBits)) = _
  rw [RM.map_ofBits_bitsv]

theorem rcrRm8Cl (p : Marks) (dst : Rm8) : Statement (.rcrRm8Cl p dst) := by
  intro z h
  show Except.ok (Instr.rcrRm8Cl p (dst.bits8.map Reg8.ofBits)) = _
  rw [RM.map_ofBits_bits8]

theorem rcrRmvCl (p : Marks) (v : OpSize) (dst : Rmv) : Statement (.rcrRmvCl p v dst) := by
  intro z h
  have h : v = p.opsizeIn z := of_decide_eq_true h
  subst h
  show Except.ok (Instr.rcrRmvCl p (p.opsizeIn z) (dst.bitsv.map Reg.ofBits)) = _
  rw [RM.map_ofBits_bitsv]

theorem rcrRm8Imm8 (p : Marks) (dst : Rm8) (count : Byte) : Statement (.rcrRm8Imm8 p dst count) := by
  intro z h
  show Except.ok (Instr.rcrRm8Imm8 p (dst.bits8.map Reg8.ofBits) count) = _
  rw [RM.map_ofBits_bits8]

theorem rcrRmvImm8 (p : Marks) (v : OpSize) (dst : Rmv) (count : Byte) : Statement (.rcrRmvImm8 p v dst count) := by
  intro z h
  have h : v = p.opsizeIn z := of_decide_eq_true h
  subst h
  show Except.ok (Instr.rcrRmvImm8 p (p.opsizeIn z) (dst.bitsv.map Reg.ofBits) count) = _
  rw [RM.map_ofBits_bitsv]

theorem shlRm8One (p : Marks) (dst : Rm8) : Statement (.shlRm8One p dst) := by
  intro z h
  show Except.ok (Instr.shlRm8One p (dst.bits8.map Reg8.ofBits)) = _
  rw [RM.map_ofBits_bits8]

theorem shlRmvOne (p : Marks) (v : OpSize) (dst : Rmv) : Statement (.shlRmvOne p v dst) := by
  intro z h
  have h : v = p.opsizeIn z := of_decide_eq_true h
  subst h
  show Except.ok (Instr.shlRmvOne p (p.opsizeIn z) (dst.bitsv.map Reg.ofBits)) = _
  rw [RM.map_ofBits_bitsv]

theorem shlRm8Cl (p : Marks) (dst : Rm8) : Statement (.shlRm8Cl p dst) := by
  intro z h
  show Except.ok (Instr.shlRm8Cl p (dst.bits8.map Reg8.ofBits)) = _
  rw [RM.map_ofBits_bits8]

theorem shlRmvCl (p : Marks) (v : OpSize) (dst : Rmv) : Statement (.shlRmvCl p v dst) := by
  intro z h
  have h : v = p.opsizeIn z := of_decide_eq_true h
  subst h
  show Except.ok (Instr.shlRmvCl p (p.opsizeIn z) (dst.bitsv.map Reg.ofBits)) = _
  rw [RM.map_ofBits_bitsv]

theorem shlRm8Imm8 (p : Marks) (dst : Rm8) (count : Byte) : Statement (.shlRm8Imm8 p dst count) := by
  intro z h
  show Except.ok (Instr.shlRm8Imm8 p (dst.bits8.map Reg8.ofBits) count) = _
  rw [RM.map_ofBits_bits8]

theorem shlRmvImm8 (p : Marks) (v : OpSize) (dst : Rmv) (count : Byte) : Statement (.shlRmvImm8 p v dst count) := by
  intro z h
  have h : v = p.opsizeIn z := of_decide_eq_true h
  subst h
  show Except.ok (Instr.shlRmvImm8 p (p.opsizeIn z) (dst.bitsv.map Reg.ofBits) count) = _
  rw [RM.map_ofBits_bitsv]

theorem shrRm8One (p : Marks) (dst : Rm8) : Statement (.shrRm8One p dst) := by
  intro z h
  show Except.ok (Instr.shrRm8One p (dst.bits8.map Reg8.ofBits)) = _
  rw [RM.map_ofBits_bits8]

theorem shrRmvOne (p : Marks) (v : OpSize) (dst : Rmv) : Statement (.shrRmvOne p v dst) := by
  intro z h
  have h : v = p.opsizeIn z := of_decide_eq_true h
  subst h
  show Except.ok (Instr.shrRmvOne p (p.opsizeIn z) (dst.bitsv.map Reg.ofBits)) = _
  rw [RM.map_ofBits_bitsv]

theorem shrRm8Cl (p : Marks) (dst : Rm8) : Statement (.shrRm8Cl p dst) := by
  intro z h
  show Except.ok (Instr.shrRm8Cl p (dst.bits8.map Reg8.ofBits)) = _
  rw [RM.map_ofBits_bits8]

theorem shrRmvCl (p : Marks) (v : OpSize) (dst : Rmv) : Statement (.shrRmvCl p v dst) := by
  intro z h
  have h : v = p.opsizeIn z := of_decide_eq_true h
  subst h
  show Except.ok (Instr.shrRmvCl p (p.opsizeIn z) (dst.bitsv.map Reg.ofBits)) = _
  rw [RM.map_ofBits_bitsv]

theorem shrRm8Imm8 (p : Marks) (dst : Rm8) (count : Byte) : Statement (.shrRm8Imm8 p dst count) := by
  intro z h
  show Except.ok (Instr.shrRm8Imm8 p (dst.bits8.map Reg8.ofBits) count) = _
  rw [RM.map_ofBits_bits8]

theorem shrRmvImm8 (p : Marks) (v : OpSize) (dst : Rmv) (count : Byte) : Statement (.shrRmvImm8 p v dst count) := by
  intro z h
  have h : v = p.opsizeIn z := of_decide_eq_true h
  subst h
  show Except.ok (Instr.shrRmvImm8 p (p.opsizeIn z) (dst.bitsv.map Reg.ofBits) count) = _
  rw [RM.map_ofBits_bitsv]

theorem sarRm8One (p : Marks) (dst : Rm8) : Statement (.sarRm8One p dst) := by
  intro z h
  show Except.ok (Instr.sarRm8One p (dst.bits8.map Reg8.ofBits)) = _
  rw [RM.map_ofBits_bits8]

theorem sarRmvOne (p : Marks) (v : OpSize) (dst : Rmv) : Statement (.sarRmvOne p v dst) := by
  intro z h
  have h : v = p.opsizeIn z := of_decide_eq_true h
  subst h
  show Except.ok (Instr.sarRmvOne p (p.opsizeIn z) (dst.bitsv.map Reg.ofBits)) = _
  rw [RM.map_ofBits_bitsv]

theorem sarRm8Cl (p : Marks) (dst : Rm8) : Statement (.sarRm8Cl p dst) := by
  intro z h
  show Except.ok (Instr.sarRm8Cl p (dst.bits8.map Reg8.ofBits)) = _
  rw [RM.map_ofBits_bits8]

theorem sarRmvCl (p : Marks) (v : OpSize) (dst : Rmv) : Statement (.sarRmvCl p v dst) := by
  intro z h
  have h : v = p.opsizeIn z := of_decide_eq_true h
  subst h
  show Except.ok (Instr.sarRmvCl p (p.opsizeIn z) (dst.bitsv.map Reg.ofBits)) = _
  rw [RM.map_ofBits_bitsv]

theorem sarRm8Imm8 (p : Marks) (dst : Rm8) (count : Byte) : Statement (.sarRm8Imm8 p dst count) := by
  intro z h
  show Except.ok (Instr.sarRm8Imm8 p (dst.bits8.map Reg8.ofBits) count) = _
  rw [RM.map_ofBits_bits8]

theorem sarRmvImm8 (p : Marks) (v : OpSize) (dst : Rmv) (count : Byte) : Statement (.sarRmvImm8 p v dst count) := by
  intro z h
  have h : v = p.opsizeIn z := of_decide_eq_true h
  subst h
  show Except.ok (Instr.sarRmvImm8 p (p.opsizeIn z) (dst.bitsv.map Reg.ofBits) count) = _
  rw [RM.map_ofBits_bitsv]

theorem shldRmvRvImm8 (p : Marks) (v : OpSize) (dst : Rmv) (src : Reg) (count : Byte) : Statement (.shldRmvRvImm8 p v dst src count) := by
  intro z h
  have h : v = p.opsizeIn z := of_decide_eq_true h
  subst h
  show Except.ok (Instr.shldRmvRvImm8 p (p.opsizeIn z) (dst.bitsv.map Reg.ofBits) (Reg.ofBits src.toBits) count) = _
  rw [RM.map_ofBits_bitsv, Reg.ofBits_toBits]

theorem shldRmvRvCl (p : Marks) (v : OpSize) (dst : Rmv) (src : Reg) : Statement (.shldRmvRvCl p v dst src) := by
  intro z h
  have h : v = p.opsizeIn z := of_decide_eq_true h
  subst h
  show Except.ok (Instr.shldRmvRvCl p (p.opsizeIn z) (dst.bitsv.map Reg.ofBits) (Reg.ofBits src.toBits)) = _
  rw [RM.map_ofBits_bitsv, Reg.ofBits_toBits]

theorem shrdRmvRvImm8 (p : Marks) (v : OpSize) (dst : Rmv) (src : Reg) (count : Byte) : Statement (.shrdRmvRvImm8 p v dst src count) := by
  intro z h
  have h : v = p.opsizeIn z := of_decide_eq_true h
  subst h
  show Except.ok (Instr.shrdRmvRvImm8 p (p.opsizeIn z) (dst.bitsv.map Reg.ofBits) (Reg.ofBits src.toBits) count) = _
  rw [RM.map_ofBits_bitsv, Reg.ofBits_toBits]

theorem shrdRmvRvCl (p : Marks) (v : OpSize) (dst : Rmv) (src : Reg) : Statement (.shrdRmvRvCl p v dst src) := by
  intro z h
  have h : v = p.opsizeIn z := of_decide_eq_true h
  subst h
  show Except.ok (Instr.shrdRmvRvCl p (p.opsizeIn z) (dst.bitsv.map Reg.ofBits) (Reg.ofBits src.toBits)) = _
  rw [RM.map_ofBits_bitsv, Reg.ofBits_toBits]

theorem seto (p : Marks) (dst : Rm8) : Statement (.seto p dst) := by
  intro z h
  show Except.ok (Instr.seto p (dst.bits8.map Reg8.ofBits)) = _
  rw [RM.map_ofBits_bits8]

theorem setno (p : Marks) (dst : Rm8) : Statement (.setno p dst) := by
  intro z h
  show Except.ok (Instr.setno p (dst.bits8.map Reg8.ofBits)) = _
  rw [RM.map_ofBits_bits8]

theorem setc (p : Marks) (dst : Rm8) : Statement (.setc p dst) := by
  intro z h
  show Except.ok (Instr.setc p (dst.bits8.map Reg8.ofBits)) = _
  rw [RM.map_ofBits_bits8]

theorem setnc (p : Marks) (dst : Rm8) : Statement (.setnc p dst) := by
  intro z h
  show Except.ok (Instr.setnc p (dst.bits8.map Reg8.ofBits)) = _
  rw [RM.map_ofBits_bits8]

theorem sete (p : Marks) (dst : Rm8) : Statement (.sete p dst) := by
  intro z h
  show Except.ok (Instr.sete p (dst.bits8.map Reg8.ofBits)) = _
  rw [RM.map_ofBits_bits8]

theorem setne (p : Marks) (dst : Rm8) : Statement (.setne p dst) := by
  intro z h
  show Except.ok (Instr.setne p (dst.bits8.map Reg8.ofBits)) = _
  rw [RM.map_ofBits_bits8]

theorem setbe (p : Marks) (dst : Rm8) : Statement (.setbe p dst) := by
  intro z h
  show Except.ok (Instr.setbe p (dst.bits8.map Reg8.ofBits)) = _
  rw [RM.map_ofBits_bits8]

theorem setnbe (p : Marks) (dst : Rm8) : Statement (.setnbe p dst) := by
  intro z h
  show Except.ok (Instr.setnbe p (dst.bits8.map Reg8.ofBits)) = _
  rw [RM.map_ofBits_bits8]

theorem sets (p : Marks) (dst : Rm8) : Statement (.sets p dst) := by
  intro z h
  show Except.ok (Instr.sets p (dst.bits8.map Reg8.ofBits)) = _
  rw [RM.map_ofBits_bits8]

theorem setns (p : Marks) (dst : Rm8) : Statement (.setns p dst) := by
  intro z h
  show Except.ok (Instr.setns p (dst.bits8.map Reg8.ofBits)) = _
  rw [RM.map_ofBits_bits8]

theorem setp (p : Marks) (dst : Rm8) : Statement (.setp p dst) := by
  intro z h
  show Except.ok (Instr.setp p (dst.bits8.map Reg8.ofBits)) = _
  rw [RM.map_ofBits_bits8]

theorem setnp (p : Marks) (dst : Rm8) : Statement (.setnp p dst) := by
  intro z h
  show Except.ok (Instr.setnp p (dst.bits8.map Reg8.ofBits)) = _
  rw [RM.map_ofBits_bits8]

theorem setl (p : Marks) (dst : Rm8) : Statement (.setl p dst) := by
  intro z h
  show Except.ok (Instr.setl p (dst.bits8.map Reg8.ofBits)) = _
  rw [RM.map_ofBits_bits8]

theorem setnl (p : Marks) (dst : Rm8) : Statement (.setnl p dst) := by
  intro z h
  show Except.ok (Instr.setnl p (dst.bits8.map Reg8.ofBits)) = _
  rw [RM.map_ofBits_bits8]

theorem setle (p : Marks) (dst : Rm8) : Statement (.setle p dst) := by
  intro z h
  show Except.ok (Instr.setle p (dst.bits8.map Reg8.ofBits)) = _
  rw [RM.map_ofBits_bits8]

theorem setnle (p : Marks) (dst : Rm8) : Statement (.setnle p dst) := by
  intro z h
  show Except.ok (Instr.setnle p (dst.bits8.map Reg8.ofBits)) = _
  rw [RM.map_ofBits_bits8]

theorem jcRel8 (p : Marks) (v : OpSize) (rel : Byte) : Statement (.jcRel8 p v rel) := by
  intro z h
  have h : v = p.opsizeIn z := of_decide_eq_true h
  subst h
  rfl

theorem jcRelv (p : Marks) (rel : ImmV) : Statement (.jcRelv p rel) := by
  intro z h
  rfl

theorem jncRel8 (p : Marks) (v : OpSize) (rel : Byte) : Statement (.jncRel8 p v rel) := by
  intro z h
  have h : v = p.opsizeIn z := of_decide_eq_true h
  subst h
  rfl

theorem jncRelv (p : Marks) (rel : ImmV) : Statement (.jncRelv p rel) := by
  intro z h
  rfl

theorem idivRm8 (p : Marks) (src : Rm8) : Statement (.idivRm8 p src) := by
  intro z h
  show Except.ok (Instr.idivRm8 p (src.bits8.map Reg8.ofBits)) = _
  rw [RM.map_ofBits_bits8]

theorem idivRmv (p : Marks) (v : OpSize) (src : Rmv) : Statement (.idivRmv p v src) := by
  intro z h
  have h : v = p.opsizeIn z := of_decide_eq_true h
  subst h
  show Except.ok (Instr.idivRmv p (p.opsizeIn z) (src.bitsv.map Reg.ofBits)) = _
  rw [RM.map_ofBits_bitsv]

end Sys2Proof.Laws.BuildOfParts
end

