-- ==== Sys2Proof/Tests/Slice0.lean ====
section
/-! SUPPORT. The model's own tests: ill-formed terms refused, words written out from spec/30_encoding.md decoded, single
steps on the values of spec/95_test_vectors.md, and for each statement with hypotheses a state that meets them. -/

namespace Sys2Proof.Tests

open Sys2Proof.Machine Sys2Proof.Claims

/-! ### Helpers -/

/-- All registers zero. -/
def r0 : Regs := ⟨0, 0, 0, 0, 0, 0, 0, 0⟩

/-- All flags clear. -/
def f0 : Flags := ⟨false, false, false, false, false, false⟩

/-- The reset state with other registers, flags and memory. -/
def start (r : Regs) (f : Flags) (m : Memory) : State := { State.reset with regs := r, flags := f, mem := m }

/-- What `view` sees after one step that runs `code`. -/
def after {α : Type} (code : List Byte) (s : State) (view : State → α) : Option α :=
  match step (s.load code code.length) with
  | .next t => some (view t)
  | _ => none

/-- What EIP is after an instruction. -/
def goes (i : Instr) (s : State) : Option Dword :=
  match exec i s with
  | .next t => some t.eip
  | _ => none

/-- The step faults with `f`. -/
def faults (s : State) (f : Fault) : Bool :=
  match step s with
  | .fault g => decide (g = f)
  | _ => false

/-- The step is refused with `r`. -/
def refuses (s : State) (r : Refusal) : Bool :=
  match step s with
  | .refused q => decide (q = r)
  | _ => false

/-- The bytes decode to the instruction, with none left over, at default sizes 32 and 32. -/
def reads (bs : List Byte) (i : Instr) : Bool :=
  match decode .flat32 bs with
  | .ok (j, []) => decide (j = i)
  | _ => false

/-- The bytes are refused with `e`. -/
def rejects (bs : List Byte) (e : DecodeError) : Bool :=
  match decode .flat32 bs with
  | .error f => decide (f = e)
  | _ => false

/-! ### Ill-formed terms are refused -/

/-- An operand size that the marks do not select. -/
theorem test_wf_size : Instr.wf .flat32 (.notRmv .empty .w16 (.reg .eax)) = false := by decide

/-- An immediate of the wrong size. -/
theorem test_wf_immediate : Instr.wf .flat32 (.andEaxImmv .empty (.i16 0)) = false := by decide

/-- An address size that the marks do not select. -/
theorem test_wf_addrsize :
    Instr.wf .flat32 (.notRm8 .empty (.mem (.a16 (some .bx) none .none))) = false := by decide

/-- An index without an SIB byte. -/
theorem test_wf_index_without_sib :
    Instr.wf .flat32 (.notRm8 .empty (.mem (.a32 false (some .eax) (some (.ecx, .x1)) .none))) = false := by decide

/-- ESP as base without an SIB byte. -/
theorem test_wf_esp_without_sib :
    Instr.wf .flat32 (.notRm8 .empty (.mem (.a32 false (some .esp) none .none))) = false := by decide

/-- ESP as index. -/
theorem test_wf_esp_index :
    Instr.wf .flat32 (.notRm8 .empty (.mem (.a32 true (some .eax) (some (.esp, .x1)) .none))) = false := by decide

/-- No base and no full displacement. -/
theorem test_wf_no_base :
    Instr.wf .flat32 (.notRm8 .empty (.mem (.a32 false none none (.d8 1)))) = false := by decide

/-- EBP as base without a displacement. -/
theorem test_wf_ebp_no_disp :
    Instr.wf .flat32 (.notRm8 .empty (.mem (.a32 false (some .ebp) none .none))) = false := by decide

/-- 16-bit addressing without base and index, and BP alone, need a displacement. -/
theorem test_wf_16_disp :
    Instr.wf ⟨.w32, .w16⟩ (.notRm8 .empty (.mem (.a16 none none .none))) = false ∧
    Instr.wf ⟨.w32, .w16⟩ (.notRm8 .empty (.mem (.a16 (some .bp) none .none))) = false := by decide

/-- LOCK on a register destination, and on a row that does not take it. -/
theorem test_wf_lock :
    Instr.wf .flat32 (.notRm8 { Marks.empty with lock := true } (.reg .al)) = false ∧
    Instr.wf .flat32
      (.btRmvImm8 { Marks.empty with lock := true } .w32 (.mem (.a32 false (some .eax) none .none)) 0) = false := by
  decide

/-! ### Decoding: every row of the opcode table, words written out from 30_encoding.md -/

theorem test_decode_or :
    reads [0xF0, 0x08, 0x0E]
    (.orRm8R8 { Marks.empty with lock := true } (.mem (.a32 false (some .esi) none .none)) .cl) ∧
    reads [0x66, 0x09, 0x63, 0xF8]
    (.orRmvRv { Marks.empty with opsize := true } .w16 (.mem (.a32 false (some .ebx) none (.d8 0xF8))) .esp) ∧
    reads [0x0A, 0xFC]
    (.orR8Rm8 .empty .bh (.reg .ah)) ∧
    reads [0x0B, 0x95, 0x78, 0x56, 0x34, 0x12]
    (.orRvRmv .empty .w32 .edx (.mem (.a32 false (some .ebp) none (.full 0x12345678)))) ∧
    reads [0x0C, 0x9D]
    (.orAlImm8 .empty 0x9D) ∧
    reads [0x0D, 0xEF, 0xCD, 0xAB, 0x89]
    (.orEaxImmv .empty (.i32 0x89ABCDEF)) ∧
    reads [0x80, 0xC8, 0xAB]
    (.orRm8Imm8 .empty (.reg .al) 0xAB) ∧
    reads [0x66, 0x81, 0x4C, 0x24, 0x08, 0xEF, 0xCD]
    (.orRmvImmv { Marks.empty with opsize := true } (.mem (.a32 true (some .esp) none (.d8 0x08))) (.i16 0xCDEF)) ∧
    reads [0xF0, 0x83, 0x0C, 0xFD, 0xFC, 0xFF, 0xFF, 0xFF, 0xB9]
    (.orRmvImm8sx { Marks.empty with lock := true } .w32
      (.mem (.a32 true none (some (.edi, .x8)) (.full 0xFFFFFFFC))) 0xB9) := by decide

theorem test_decode_and :
    reads [0x67, 0x20, 0x27]
    (.andRm8R8 { Marks.empty with addrsize := true } (.mem (.a16 (some .bx) none .none)) .ah) ∧
    reads [0x66, 0x21, 0xFC]
    (.andRmvRv { Marks.empty with opsize := true } .w16 (.reg .esp) .edi) ∧
    reads [0x67, 0x22, 0x52, 0x7F]
    (.andR8Rm8 { Marks.empty with addrsize := true } .dl (.mem (.a16 (some .bp) (some .si) (.d8 0x7F)))) ∧
    reads [0x67, 0x23, 0x2E, 0x34, 0x12]
    (.andRvRmv { Marks.empty with addrsize := true } .w32 .ebp (.mem (.a16 none none (.full 0x1234)))) ∧
    reads [0x24, 0xDC]
    (.andAlImm8 .empty 0xDC) ∧
    reads [0x25, 0xEF, 0xCD, 0xAB, 0x89]
    (.andEaxImmv .empty (.i32 0x89ABCDEF)) ∧
    reads [0x80, 0x63, 0xF8, 0xEA]
    (.andRm8Imm8 .empty (.mem (.a32 false (some .ebx) none (.d8 0xF8))) 0xEA) ∧
    reads [0x66, 0x81, 0xE2, 0xEF, 0xCD]
    (.andRmvImmv { Marks.empty with opsize := true } (.reg .edx) (.i16 0xCDEF)) ∧
    reads [0x83, 0xA5, 0x78, 0x56, 0x34, 0x12, 0xF8]
    (.andRmvImm8sx .empty .w32 (.mem (.a32 false (some .ebp) none (.full 0x12345678))) 0xF8) := by decide

theorem test_decode_xor :
    reads [0xF0, 0x30, 0x3D, 0x00, 0x20, 0x00, 0x00]
    (.xorRm8R8 { Marks.empty with lock := true } (.mem (.a32 false none none (.full 0x2000))) .bh) ∧
    reads [0x66, 0x31, 0x14, 0x8B]
    (.xorRmvRv { Marks.empty with opsize := true } .w16 (.mem (.a32 true (some .ebx) (some (.ecx, .x4)) .none)) .edx) ∧
    reads [0x32, 0xEE]
    (.xorR8Rm8 .empty .ch (.reg .dh)) ∧
    reads [0x33, 0x44, 0x24, 0x08]
    (.xorRvRmv .empty .w32 .eax (.mem (.a32 true (some .esp) none (.d8 0x08)))) ∧
    reads [0x34, 0x1B]
    (.xorAlImm8 .empty 0x1B) ∧
    reads [0x35, 0xEF, 0xCD, 0xAB, 0x89]
    (.xorEaxImmv .empty (.i32 0x89ABCDEF)) ∧
    reads [0x80, 0xF2, 0x29]
    (.xorRm8Imm8 .empty (.reg .dl) 0x29) ∧
    reads [0x66, 0x67, 0x81, 0x72, 0x7F, 0xEF, 0xCD]
    (.xorRmvImmv { Marks.empty with opsize := true, addrsize := true }
      (.mem (.a16 (some .bp) (some .si) (.d8 0x7F))) (.i16 0xCDEF)) ∧
    reads [0xF0, 0x67, 0x83, 0x36, 0x34, 0x12, 0x37]
    (.xorRmvImm8sx { Marks.empty with addrsize := true, lock := true } .w32
      (.mem (.a16 none none (.full 0x1234))) 0x37) := by decide

theorem test_decode_not :
    reads [0x64, 0xF6, 0x17]
    (.notRm8 { Marks.empty with seg := some .fs } (.mem (.a32 false (some .edi) none .none))) ∧
    reads [0xF0, 0x66, 0xF7, 0x16]
    (.notRmv { Marks.empty with opsize := true, lock := true } .w16
      (.mem (.a32 false (some .esi) none .none))) := by decide

theorem test_decode_bit_tests :
    reads [0x0F, 0xA3, 0x43, 0xF8]
    (.btRmvRv .empty .w32 (.mem (.a32 false (some .ebx) none (.d8 0xF8))) .eax) ∧
    reads [0x0F, 0xBA, 0xE0, 0x53]
    (.btRmvImm8 .empty .w32 (.reg .eax) 0x53) ∧
    reads [0x66, 0x0F, 0xAB, 0xB5, 0x78, 0x56, 0x34, 0x12]
    (.btsRmvRv { Marks.empty with opsize := true } .w16 (.mem (.a32 false (some .ebp) none (.full 0x12345678))) .esi) ∧
    reads [0xF0, 0x0F, 0xBA, 0x2D, 0x00, 0x20, 0x00, 0x00, 0x61]
    (.btsRmvImm8 { Marks.empty with lock := true } .w32 (.mem (.a32 false none none (.full 0x2000))) 0x61) ∧
    reads [0x0F, 0xB3, 0x24, 0x8B]
    (.btrRmvRv .empty .w32 (.mem (.a32 true (some .ebx) (some (.ecx, .x4)) .none)) .esp) ∧
    reads [0x66, 0x0F, 0xBA, 0xF4, 0x6F]
    (.btrRmvImm8 { Marks.empty with opsize := true } .w16 (.reg .esp) 0x6F) ∧
    reads [0x0F, 0xBB, 0x54, 0x24, 0x08]
    (.btcRmvRv .empty .w32 (.mem (.a32 true (some .esp) none (.d8 0x08))) .edx) ∧
    reads [0xF0, 0x0F, 0xBA, 0x3C, 0xFD, 0xFC, 0xFF, 0xFF, 0xFF, 0x7D]
    (.btcRmvImm8 { Marks.empty with lock := true } .w32
      (.mem (.a32 true none (some (.edi, .x8)) (.full 0xFFFFFFFC))) 0x7D) := by decide

theorem test_decode_bit_scans :
    reads [0x66, 0x67, 0x0F, 0xBC, 0x07]
    (.bsfRvRmv { Marks.empty with opsize := true, addrsize := true } .w16 .eax (.mem (.a16 (some .bx) none .none))) ∧
    reads [0x0F, 0xBD, 0xD8]
    (.bsrRvRmv .empty .w32 .ebx (.reg .eax)) := by decide

theorem test_decode_rol :
    reads [0x67, 0xD0, 0x42, 0x7F]
    (.rolRm8One { Marks.empty with addrsize := true } (.mem (.a16 (some .bp) (some .si) (.d8 0x7F)))) ∧
    reads [0x66, 0x67, 0xD1, 0x06, 0x34, 0x12]
    (.rolRmvOne { Marks.empty with opsize := true, addrsize := true } .w16 (.mem (.a16 none none (.full 0x1234)))) ∧
    reads [0x64, 0xD2, 0x07]
    (.rolRm8Cl { Marks.empty with seg := some .fs } (.mem (.a32 false (some .edi) none .none))) ∧
    reads [0xD3, 0x06]
    (.rolRmvCl .empty .w32 (.mem (.a32 false (some .esi) none .none))) ∧
    reads [0xC0, 0x43, 0xF8, 0xAE]
    (.rolRm8Imm8 .empty (.mem (.a32 false (some .ebx) none (.d8 0xF8))) 0xAE) ∧
    reads [0xC1, 0xC6, 0xB5]
    (.rolRmvImm8 .empty .w32 (.reg .esi) 0xB5) := by decide

theorem test_decode_ror :
    reads [0xD0, 0x8D, 0x78, 0x56, 0x34, 0x12]
    (.rorRm8One .empty (.mem (.a32 false (some .ebp) none (.full 0x12345678)))) ∧
    reads [0x66, 0xD1, 0x0D, 0x00, 0x20, 0x00, 0x00]
    (.rorRmvOne { Marks.empty with opsize := true } .w16 (.mem (.a32 false none none (.full 0x2000)))) ∧
    reads [0xD2, 0x0C, 0x8B]
    (.rorRm8Cl .empty (.mem (.a32 true (some .ebx) (some (.ecx, .x4)) .none))) ∧
    reads [0xD3, 0xCA]
    (.rorRmvCl .empty .w32 (.reg .edx)) ∧
    reads [0xC0, 0x4C, 0x24, 0x08, 0xD8]
    (.rorRm8Imm8 .empty (.mem (.a32 true (some .esp) none (.d8 0x08))) 0xD8) ∧
    reads [0xC1, 0x0C, 0xFD, 0xFC, 0xFF, 0xFF, 0xFF, 0xDF]
    (.rorRmvImm8 .empty .w32 (.mem (.a32 true none (some (.edi, .x8)) (.full 0xFFFFFFFC))) 0xDF) := by decide

theorem test_decode_rcl :
    reads [0x67, 0xD0, 0x17]
    (.rclRm8One { Marks.empty with addrsize := true } (.mem (.a16 (some .bx) none .none))) ∧
    reads [0x66, 0xD1, 0xD6]
    (.rclRmvOne { Marks.empty with opsize := true } .w16 (.reg .esi)) ∧
    reads [0x67, 0xD2, 0x52, 0x7F]
    (.rclRm8Cl { Marks.empty with addrsize := true } (.mem (.a16 (some .bp) (some .si) (.d8 0x7F)))) ∧
    reads [0x67, 0xD3, 0x16, 0x34, 0x12]
    (.rclRmvCl { Marks.empty with addrsize := true } .w32 (.mem (.a16 none none (.full 0x1234)))) ∧
    reads [0x64, 0xC0, 0x17, 0x02]
    (.rclRm8Imm8 { Marks.empty with seg := some .fs } (.mem (.a32 false (some .edi) none .none)) 0x02) ∧
    reads [0xC1, 0x16, 0x09]
    (.rclRmvImm8 .empty .w32 (.mem (.a32 false (some .esi) none .none)) 0x09) := by decide

theorem test_decode_rcr :
    reads [0xD0, 0x5B, 0xF8]
    (.rcrRm8One .empty (.mem (.a32 false (some .ebx) none (.d8 0xF8)))) ∧
    reads [0x66, 0xD1, 0xDC]
    (.rcrRmvOne { Marks.empty with opsize := true } .w16 (.reg .esp)) ∧
    reads [0xD2, 0x9D, 0x78, 0x56, 0x34, 0x12]
    (.rcrRm8Cl .empty (.mem (.a32 false (some .ebp) none (.full 0x12345678)))) ∧
    reads [0xD3, 0x1D, 0x00, 0x20, 0x00, 0x00]
    (.rcrRmvCl .empty .w32 (.mem (.a32 false none none (.full 0x2000)))) ∧
    reads [0xC0, 0x1C, 0x8B, 0x2C]
    (.rcrRm8Imm8 .empty (.mem (.a32 true (some .ebx) (some (.ecx, .x4)) .none)) 0x2C) ∧
    reads [0xC1, 0xD8, 0x33]
    (.rcrRmvImm8 .empty .w32 (.reg .eax) 0x33) := by decide

theorem test_decode_shl :
    reads [0xD0, 0x64, 0x24, 0x08]
    (.shlRm8One .empty (.mem (.a32 true (some .esp) none (.d8 0x08)))) ∧
    reads [0x66, 0xD1, 0x24, 0xFD, 0xFC, 0xFF, 0xFF, 0xFF]
    (.shlRmvOne { Marks.empty with opsize := true } .w16
      (.mem (.a32 true none (some (.edi, .x8)) (.full 0xFFFFFFFC)))) ∧
    reads [0x67, 0xD2, 0x27]
    (.shlRm8Cl { Marks.empty with addrsize := true } (.mem (.a16 (some .bx) none .none))) ∧
    reads [0xD3, 0xE4]
    (.shlRmvCl .empty .w32 (.reg .esp)) ∧
    reads [0x67, 0xC0, 0x62, 0x7F, 0x56]
    (.shlRm8Imm8 { Marks.empty with addrsize := true } (.mem (.a16 (some .bp) (some .si) (.d8 0x7F))) 0x56) ∧
    reads [0x67, 0xC1, 0x26, 0x34, 0x12, 0x5D]
    (.shlRmvImm8 { Marks.empty with addrsize := true } .w32 (.mem (.a16 none none (.full 0x1234))) 0x5D) := by decide

theorem test_decode_shr :
    reads [0x64, 0xD0, 0x2F]
    (.shrRm8One { Marks.empty with seg := some .fs } (.mem (.a32 false (some .edi) none .none))) ∧
    reads [0x66, 0xD1, 0x2E]
    (.shrRmvOne { Marks.empty with opsize := true } .w16 (.mem (.a32 false (some .esi) none .none))) ∧
    reads [0xD2, 0x6B, 0xF8]
    (.shrRm8Cl .empty (.mem (.a32 false (some .ebx) none (.d8 0xF8)))) ∧
    reads [0xD3, 0xEA]
    (.shrRmvCl .empty .w32 (.reg .edx)) ∧
    reads [0xC0, 0xAD, 0x78, 0x56, 0x34, 0x12, 0x80]
    (.shrRm8Imm8 .empty (.mem (.a32 false (some .ebp) none (.full 0x12345678))) 0x80) ∧
    reads [0xC1, 0x2D, 0x00, 0x20, 0x00, 0x00, 0x87]
    (.shrRmvImm8 .empty .w32 (.mem (.a32 false none none (.full 0x2000))) 0x87) := by decide

theorem test_decode_sar :
    reads [0xD0, 0x3C, 0x8B]
    (.sarRm8One .empty (.mem (.a32 true (some .ebx) (some (.ecx, .x4)) .none))) ∧
    reads [0x66, 0xD1, 0xFE]
    (.sarRmvOne { Marks.empty with opsize := true } .w16 (.reg .esi)) ∧
    reads [0xD2, 0x7C, 0x24, 0x08]
    (.sarRm8Cl .empty (.mem (.a32 true (some .esp) none (.d8 0x08)))) ∧
    reads [0xD3, 0x3C, 0xFD, 0xFC, 0xFF, 0xFF, 0xFF]
    (.sarRmvCl .empty .w32 (.mem (.a32 true none (some (.edi, .x8)) (.full 0xFFFFFFFC)))) ∧
    reads [0x67, 0xC0, 0x3F, 0xAA]
    (.sarRm8Imm8 { Marks.empty with addrsize := true } (.mem (.a16 (some .bx) none .none)) 0xAA) ∧
    reads [0xC1, 0xFA, 0xB1]
    (.sarRmvImm8 .empty .w32 (.reg .edx) 0xB1) := by decide

theorem test_decode_double_shifts :
    reads [0x67, 0x0F, 0xA4, 0x62, 0x7F, 0xB8]
    (.shldRmvRvImm8 { Marks.empty with addrsize := true } .w32
      (.mem (.a16 (some .bp) (some .si) (.d8 0x7F))) .esp 0xB8) ∧
    reads [0x66, 0x67, 0x0F, 0xA5, 0x3E, 0x34, 0x12]
    (.shldRmvRvCl { Marks.empty with opsize := true, addrsize := true } .w16
      (.mem (.a16 none none (.full 0x1234))) .edi) ∧
    reads [0x64, 0x0F, 0xAC, 0x17, 0xC6]
    (.shrdRmvRvImm8 { Marks.empty with seg := some .fs } .w32 (.mem (.a32 false (some .edi) none .none)) .edx 0xC6) ∧
    reads [0x0F, 0xAD, 0x2E]
    (.shrdRmvRvCl .empty .w32 (.mem (.a32 false (some .esi) none .none)) .ebp) := by decide

theorem test_decode_setcc :
    reads [0x0F, 0x90, 0x43, 0xF8]
    (.seto .empty (.mem (.a32 false (some .ebx) none (.d8 0xF8)))) ∧
    reads [0x0F, 0x91, 0xC0]
    (.setno .empty (.reg .al)) ∧
    reads [0x0F, 0x92, 0x85, 0x78, 0x56, 0x34, 0x12]
    (.setc .empty (.mem (.a32 false (some .ebp) none (.full 0x12345678)))) ∧
    reads [0x0F, 0x93, 0x05, 0x00, 0x20, 0x00, 0x00]
    (.setnc .empty (.mem (.a32 false none none (.full 0x2000)))) ∧
    reads [0x0F, 0x94, 0x04, 0x8B]
    (.sete .empty (.mem (.a32 true (some .ebx) (some (.ecx, .x4)) .none))) ∧
    reads [0x0F, 0x95, 0xC4]
    (.setne .empty (.reg .ah)) ∧
    reads [0x0F, 0x96, 0x44, 0x24, 0x08]
    (.setbe .empty (.mem (.a32 true (some .esp) none (.d8 0x08)))) ∧
    reads [0x0F, 0x97, 0x04, 0xFD, 0xFC, 0xFF, 0xFF, 0xFF]
    (.setnbe .empty (.mem (.a32 true none (some (.edi, .x8)) (.full 0xFFFFFFFC)))) ∧
    reads [0x67, 0x0F, 0x98, 0x07]
    (.sets { Marks.empty with addrsize := true } (.mem (.a16 (some .bx) none .none))) ∧
    reads [0x0F, 0x99, 0xC0]
    (.setns .empty (.reg .al)) ∧
    reads [0x67, 0x0F, 0x9A, 0x42, 0x7F]
    (.setp { Marks.empty with addrsize := true } (.mem (.a16 (some .bp) (some .si) (.d8 0x7F)))) ∧
    reads [0x67, 0x0F, 0x9B, 0x06, 0x34, 0x12]
    (.setnp { Marks.empty with addrsize := true } (.mem (.a16 none none (.full 0x1234)))) ∧
    reads [0x64, 0x0F, 0x9C, 0x07]
    (.setl { Marks.empty with seg := some .fs } (.mem (.a32 false (some .edi) none .none))) ∧
    reads [0x0F, 0x9D, 0x06]
    (.setnl .empty (.mem (.a32 false (some .esi) none .none))) ∧
    reads [0x0F, 0x9E, 0x43, 0xF8]
    (.setle .empty (.mem (.a32 false (some .ebx) none (.d8 0xF8)))) ∧
    reads [0x0F, 0x9F, 0xC6]
    (.setnle .empty (.reg .dh)) := by decide

theorem test_decode_jumps :
    reads [0x72, 0x44]
    (.jcRel8 .empty .w32 0x44) ∧
    reads [0x0F, 0x82, 0xEF, 0xCD, 0xAB, 0x89]
    (.jcRelv .empty (.i32 0x89ABCDEF)) ∧
    reads [0x66, 0x73, 0x52]
    (.jncRel8 { Marks.empty with opsize := true } .w16 0x52) ∧
    reads [0x0F, 0x83, 0xEF, 0xCD, 0xAB, 0x89]
    (.jncRelv .empty (.i32 0x89ABCDEF)) := by decide

theorem test_decode_idiv :
    reads [0xF6, 0x7C, 0x24, 0x08]
    (.idivRm8 .empty (.mem (.a32 true (some .esp) none (.d8 0x08)))) ∧
    reads [0x66, 0xF7, 0x3C, 0xFD, 0xFC, 0xFF, 0xFF, 0xFF]
    (.idivRmv { Marks.empty with opsize := true } .w16
      (.mem (.a32 true none (some (.edi, .x8)) (.full 0xFFFFFFFC)))) := by decide

/-! ### Single steps on the values of 95_test_vectors.md section 2 -/

/-- `AND EAX, 0000FF00h`: section 2.1. -/
theorem test_and_eax_0000ff00h :
    after [0x81, 0xE0, 0x00, 0xFF, 0x00, 0x00]
      (start { r0 with eax := 0x12345678 } f0 [])
      (fun t => (t.regs.eax, t.flags.of, t.flags.cf, t.flags.sf, t.flags.zf, t.flags.pf)) =
      some (0x00005600, false, false, false, false, true) := by decide

/-- `AND AL, 80h`: section 2.1. -/
theorem test_and_al_80h :
    after [0x80, 0xE0, 0x80]
      (start { r0 with eax := 0xFF } f0 [])
      (fun t => (t.regs.eax, t.flags.of, t.flags.cf, t.flags.sf, t.flags.zf, t.flags.pf)) =
      some (0x00000080, false, false, true, false, false) := by decide

/-- `AND EAX, -16`: section 2.1. -/
theorem test_and_eax_minus_16 :
    after [0x83, 0xE0, 0xF0]
      (start { r0 with eax := 0x12345678 } f0 [])
      (fun t => (t.regs.eax, t.flags.of, t.flags.cf, t.flags.sf, t.flags.zf, t.flags.pf)) =
      some (0x12345670, false, false, false, false, false) := by decide

/-- `OR BL, 81h`: section 2.1. -/
theorem test_or_bl_81h :
    after [0x80, 0xCB, 0x81]
      (start { r0 with ebx := 0x2 } f0 [])
      (fun t => (t.regs.ebx, t.flags.of, t.flags.cf, t.flags.sf, t.flags.zf, t.flags.pf)) =
      some (0x00000083, false, false, true, false, false) := by decide

/-- `OR EAX, EAX`: section 2.1. -/
theorem test_or_eax_eax :
    after [0x09, 0xC0]
      (start r0 f0 [])
      (fun t => (t.regs.eax, t.flags.of, t.flags.cf, t.flags.sf, t.flags.zf, t.flags.pf)) =
      some (0x00000000, false, false, false, true, true) := by decide

/-- `OR EAX, 80000000h`: section 2.1. -/
theorem test_or_eax_80000000h :
    after [0x81, 0xC8, 0x00, 0x00, 0x00, 0x80]
      (start { r0 with eax := 0x7FFFFFFF } f0 [])
      (fun t => (t.regs.eax, t.flags.of, t.flags.cf, t.flags.sf, t.flags.zf, t.flags.pf)) =
      some (0xFFFFFFFF, false, false, true, false, true) := by decide

/-- `OR AX, -128`: section 2.1. -/
theorem test_or_ax_minus_128 :
    after [0x66, 0x83, 0xC8, 0x80]
      (start { r0 with eax := 0x1234 } f0 [])
      (fun t => (t.regs.eax, t.flags.of, t.flags.cf, t.flags.sf, t.flags.zf, t.flags.pf)) =
      some (0x0000FFB4, false, false, true, false, true) := by decide

/-- `XOR ECX, ECX`: section 2.1. -/
theorem test_xor_ecx_ecx :
    after [0x31, 0xC9]
      (start { r0 with ecx := 0xDEADBEEF } f0 [])
      (fun t => (t.regs.ecx, t.flags.of, t.flags.cf, t.flags.sf, t.flags.zf, t.flags.pf)) =
      some (0x00000000, false, false, false, true, true) := by decide

/-- `XOR AX, FFFFh`: section 2.1. -/
theorem test_xor_ax_ffffh :
    after [0x66, 0x81, 0xF0, 0xFF, 0xFF]
      (start { r0 with eax := 0xFF } f0 [])
      (fun t => (t.regs.eax, t.flags.of, t.flags.cf, t.flags.sf, t.flags.zf, t.flags.pf)) =
      some (0x0000FF00, false, false, true, false, true) := by decide

/-- `XOR AL, AAh`: section 2.1. -/
theorem test_xor_al_aah :
    after [0x80, 0xF0, 0xAA]
      (start { r0 with eax := 0x55 } f0 [])
      (fun t => (t.regs.eax, t.flags.of, t.flags.cf, t.flags.sf, t.flags.zf, t.flags.pf)) =
      some (0x000000FF, false, false, true, false, true) := by decide

/-- `NOT AL`: section 2.1. -/
theorem test_not_al :
    after [0xF6, 0xD0]
      (start { r0 with eax := 0x1234560F } ⟨true, true, false, true, true, true⟩ [])
      (fun t => (t.regs.eax, t.flags.of, t.flags.cf, t.flags.sf, t.flags.zf, t.flags.pf)) =
      some (0x123456F0, true, true, true, true, true) := by decide

/-- `NOT EAX`: section 2.1. -/
theorem test_not_eax :
    after [0xF7, 0xD0]
      (start r0 ⟨true, true, false, true, true, true⟩ [])
      (fun t => (t.regs.eax, t.flags.of, t.flags.cf, t.flags.sf, t.flags.zf, t.flags.pf)) =
      some (0xFFFFFFFF, true, true, true, true, true) := by decide

/-- `AND AL, AH`: section 2.1. -/
theorem test_and_al_ah :
    after [0x20, 0xE0]
      (start { r0 with eax := 0xF0FF } f0 [])
      (fun t => (t.regs.eax, t.flags.of, t.flags.cf, t.flags.sf, t.flags.zf, t.flags.pf)) =
      some (0x0000F0F0, false, false, true, false, true) := by decide

/-- `BT EAX, 31`: section 2.2. -/
theorem test_bt_eax_31 :
    after [0x0F, 0xBA, 0xE0, 0x1F]
      (start { r0 with eax := 0x80000000 } f0 [])
      (fun t => (t.regs.eax, t.flags.cf)) =
      some (0x80000000, true) := by decide

/-- `BT AX, CX`: section 2.2. -/
theorem test_bt_ax_cx :
    after [0x66, 0x0F, 0xA3, 0xC8]
      (start { r0 with eax := 0x8000, ecx := 0xFFFF } f0 [])
      (fun t => (t.regs.eax, t.flags.cf)) =
      some (0x00008000, true) := by decide

/-- `BTS EDX, 4`: section 2.2. -/
theorem test_bts_edx_4 :
    after [0x0F, 0xBA, 0xEA, 0x04]
      (start r0 f0 [])
      (fun t => (t.regs.edx, t.flags.cf)) =
      some (0x00000010, false) := by decide

/-- `BTR WORD PTR [ESI], 15`: section 2.2. -/
theorem test_btr_word_ptr_esi_15 :
    after [0x66, 0x0F, 0xBA, 0x36, 0x0F]
      (start { r0 with esi := 0x1000 } f0 [(0x1000, 0x01), (0x1001, 0x80)])
      (fun t => (t.byteAt 0x1000, t.byteAt 0x1001, t.flags.cf)) =
      some (0x01, 0x00, true) := by decide

/-- `BTR EAX, EAX`: section 2.2. -/
theorem test_btr_eax_eax :
    after [0x0F, 0xB3, 0xC0]
      (start { r0 with eax := 0x5 } f0 [])
      (fun t => (t.regs.eax, t.flags.cf)) =
      some (0x00000005, false) := by decide

/-- `BTC EAX, ECX`: section 2.2. -/
theorem test_btc_eax_ecx :
    after [0x0F, 0xBB, 0xC8]
      (start { r0 with eax := 0xF, ecx := 0x23 } f0 [])
      (fun t => (t.regs.eax, t.flags.cf)) =
      some (0x00000007, true) := by decide

/-- `BTS DWORD PTR [EBX], EAX`: section 2.2. -/
theorem test_bts_dword_ptr_ebx_eax :
    after [0x0F, 0xAB, 0x03]
      (start { r0 with eax := 0x23, ebx := 0x1000 } f0 [])
      (fun t => (t.byteAt 0x1004, t.byteAt 0x1005, t.byteAt 0x1006, t.byteAt 0x1007, t.flags.cf)) =
      some (0x08, 0x00, 0x00, 0x00, false) := by decide

/-- `BT WORD PTR [EBX], AX`: section 2.2. -/
theorem test_bt_word_ptr_ebx_ax :
    after [0x66, 0x0F, 0xA3, 0x03]
      (start { r0 with eax := 0xFFF0, ebx := 0x1000 } f0 [(0xFFE, 0x01)])
      (fun t => (t.byteAt 0xFFE, t.byteAt 0xFFF, t.flags.cf)) =
      some (0x01, 0x00, true) := by decide

/-- `BT DWORD PTR [EBX], 35`: section 2.2. -/
theorem test_bt_dword_ptr_ebx_35 :
    after [0x0F, 0xBA, 0x23, 0x23]
      (start { r0 with ebx := 0x1000 } f0 [(0x1000, 0x08)])
      (fun t => (t.byteAt 0x1000, t.byteAt 0x1001, t.byteAt 0x1002, t.byteAt 0x1003, t.flags.cf)) =
      some (0x08, 0x00, 0x00, 0x00, true) := by decide

/-- `BSF EAX, EBX`: section 2.3. -/
theorem test_bsf_eax_ebx :
    after [0x0F, 0xBC, 0xC3]
      (start { r0 with ebx := 0x500 } f0 [])
      (fun t => (t.regs.eax, t.flags.zf)) =
      some (0x00000008, false) := by decide

/-- `BSR EAX, EBX`: section 2.3. -/
theorem test_bsr_eax_ebx :
    after [0x0F, 0xBD, 0xC3]
      (start { r0 with ebx := 0x500 } f0 [])
      (fun t => (t.regs.eax, t.flags.zf)) =
      some (0x0000000A, false) := by decide

/-- `SHL EAX, 1`: section 2.4. -/
theorem test_shl_eax_1 :
    after [0xD1, 0xE0]
      (start { r0 with eax := 0x8888888F } f0 [])
      (fun t => (t.regs.eax, t.flags.cf, t.flags.of, t.flags.sf, t.flags.zf, t.flags.pf)) =
      some (0x1111111E, true, true, false, false, true) := by decide

/-- `SHL AX, 1`: section 2.4. -/
theorem test_shl_ax_1 :
    after [0x66, 0xD1, 0xE0]
      (start { r0 with eax := 0x8000 } f0 [])
      (fun t => (t.regs.eax, t.flags.cf, t.flags.of, t.flags.sf, t.flags.zf, t.flags.pf)) =
      some (0x00000000, true, true, false, true, true) := by decide

/-- `SHL AL, 1`: section 2.4. -/
theorem test_shl_al_1 :
    after [0xD0, 0xE0]
      (start r0 f0 [])
      (fun t => (t.regs.eax, t.flags.cf, t.flags.of, t.flags.sf, t.flags.zf, t.flags.pf)) =
      some (0x00000000, false, false, false, true, true) := by decide

/-- `SHL EAX, 31`: section 2.4. -/
theorem test_shl_eax_31 :
    after [0xC1, 0xE0, 0x1F]
      (start { r0 with eax := 0x1 } f0 [])
      (fun t => (t.regs.eax, t.flags.cf, t.flags.sf, t.flags.zf, t.flags.pf)) =
      some (0x80000000, false, true, false, true) := by decide

/-- `SHL AL, 7`: section 2.4. -/
theorem test_shl_al_7 :
    after [0xC0, 0xE0, 0x07]
      (start { r0 with eax := 0xFF } f0 [])
      (fun t => (t.regs.eax, t.flags.cf, t.flags.sf, t.flags.zf, t.flags.pf)) =
      some (0x00000080, true, true, false, false) := by decide

/-- `SHL AL, 9`: section 2.4. -/
theorem test_shl_al_9 :
    after [0xC0, 0xE0, 0x09]
      (start { r0 with eax := 0x81 } f0 [])
      (fun t => (t.regs.eax, t.flags.sf, t.flags.zf, t.flags.pf)) =
      some (0x00000000, false, true, true) := by decide

/-- `SHL EAX, 33`: section 2.4. -/
theorem test_shl_eax_33 :
    after [0xC1, 0xE0, 0x21]
      (start { r0 with eax := 0x12345678 } f0 [])
      (fun t => (t.regs.eax, t.flags.cf, t.flags.of, t.flags.sf, t.flags.zf, t.flags.pf)) =
      some (0x2468ACF0, false, false, false, false, true) := by decide

/-- `SHL EAX, CL`: section 2.4. -/
theorem test_shl_eax_cl :
    after [0xD3, 0xE0]
      (start { r0 with eax := 0x12345678 } ⟨true, true, false, true, true, true⟩ [])
      (fun t => (t.regs.eax, t.flags.cf, t.flags.of, t.flags.sf, t.flags.zf, t.flags.pf)) =
      some (0x12345678, true, true, true, true, true) := by decide

/-- `SHL ECX, CL`: section 2.4. -/
theorem test_shl_ecx_cl :
    after [0xD3, 0xE1]
      (start { r0 with ecx := 0x4 } f0 [])
      (fun t => (t.regs.ecx, t.flags.cf, t.flags.sf, t.flags.zf, t.flags.pf)) =
      some (0x00000040, false, false, false, false) := by decide

/-- `SHR EAX, 1`: section 2.4. -/
theorem test_shr_eax_1 :
    after [0xD1, 0xE8]
      (start { r0 with eax := 0x8888888F } f0 [])
      (fun t => (t.regs.eax, t.flags.cf, t.flags.of, t.flags.sf, t.flags.zf, t.flags.pf)) =
      some (0x44444447, true, true, false, false, true) := by decide

/-- `SHR EAX, 1`: section 2.4. -/
theorem test_shr_eax_1_b :
    after [0xD1, 0xE8]
      (start { r0 with eax := 0x1 } f0 [])
      (fun t => (t.regs.eax, t.flags.cf, t.flags.of, t.flags.sf, t.flags.zf, t.flags.pf)) =
      some (0x00000000, true, false, false, true, true) := by decide

/-- `SHR EAX, 4`: section 2.4. -/
theorem test_shr_eax_4 :
    after [0xC1, 0xE8, 0x04]
      (start { r0 with eax := 0x12345678 } f0 [])
      (fun t => (t.regs.eax, t.flags.cf, t.flags.sf, t.flags.zf, t.flags.pf)) =
      some (0x01234567, true, false, false, false) := by decide

/-- `SHR AX, 15`: section 2.4. -/
theorem test_shr_ax_15 :
    after [0x66, 0xC1, 0xE8, 0x0F]
      (start { r0 with eax := 0xFFFF } f0 [])
      (fun t => (t.regs.eax, t.flags.cf, t.flags.sf, t.flags.zf, t.flags.pf)) =
      some (0x00000001, true, false, false, false) := by decide

/-- `SHR AL, 8`: section 2.4. -/
theorem test_shr_al_8 :
    after [0xC0, 0xE8, 0x08]
      (start { r0 with eax := 0x81 } f0 [])
      (fun t => (t.regs.eax, t.flags.sf, t.flags.zf, t.flags.pf)) =
      some (0x00000000, false, true, true) := by decide

/-- `SHR AL, 31`: section 2.4. -/
theorem test_shr_al_31 :
    after [0xC0, 0xE8, 0x1F]
      (start { r0 with eax := 0x81 } f0 [])
      (fun t => (t.regs.eax, t.flags.sf, t.flags.zf, t.flags.pf)) =
      some (0x00000000, false, true, true) := by decide

/-- `SAR EAX, 2`: section 2.4. -/
theorem test_sar_eax_2 :
    after [0xC1, 0xF8, 0x02]
      (start { r0 with eax := 0xFFFFFFF7 } f0 [])
      (fun t => (t.regs.eax, t.flags.cf, t.flags.sf, t.flags.zf, t.flags.pf)) =
      some (0xFFFFFFFD, true, true, false, false) := by decide

/-- `SAR EAX, 1`: section 2.4. -/
theorem test_sar_eax_1 :
    after [0xD1, 0xF8]
      (start { r0 with eax := 0xFFFFFFF7 } f0 [])
      (fun t => (t.regs.eax, t.flags.cf, t.flags.of, t.flags.sf, t.flags.zf, t.flags.pf)) =
      some (0xFFFFFFFB, true, false, true, false, false) := by decide

/-- `SAR EAX, 31`: section 2.4. -/
theorem test_sar_eax_31 :
    after [0xC1, 0xF8, 0x1F]
      (start { r0 with eax := 0x80000000 } f0 [])
      (fun t => (t.regs.eax, t.flags.cf, t.flags.sf, t.flags.zf, t.flags.pf)) =
      some (0xFFFFFFFF, false, true, false, true) := by decide

/-- `SAR AX, 1`: section 2.4. -/
theorem test_sar_ax_1 :
    after [0x66, 0xD1, 0xF8]
      (start { r0 with eax := 0x8000 } f0 [])
      (fun t => (t.regs.eax, t.flags.cf, t.flags.of, t.flags.sf, t.flags.zf, t.flags.pf)) =
      some (0x0000C000, false, false, true, false, true) := by decide

/-- `SAR AL, 7`: section 2.4. -/
theorem test_sar_al_7 :
    after [0xC0, 0xF8, 0x07]
      (start { r0 with eax := 0x80 } f0 [])
      (fun t => (t.regs.eax, t.flags.cf, t.flags.sf, t.flags.zf, t.flags.pf)) =
      some (0x000000FF, false, true, false, true) := by decide

/-- `SAR AL, 34`: section 2.4. -/
theorem test_sar_al_34 :
    after [0xC0, 0xF8, 0x22]
      (start { r0 with eax := 0xF7 } f0 [])
      (fun t => (t.regs.eax, t.flags.cf, t.flags.sf, t.flags.zf, t.flags.pf)) =
      some (0x000000FD, true, true, false, false) := by decide

/-- `SHLD EDX, EAX, 4`: section 2.5. -/
theorem test_shld_edx_eax_4 :
    after [0x0F, 0xA4, 0xC2, 0x04]
      (start { r0 with eax := 0x89ABCDEF, edx := 0x1234567 } f0 [])
      (fun t => (t.regs.edx, t.flags.cf, t.flags.sf, t.flags.zf, t.flags.pf)) =
      some (0x12345678, false, false, false, true) := by decide

/-- `SHLD EDX, EAX, 32`: section 2.5. -/
theorem test_shld_edx_eax_32 :
    after [0x0F, 0xA4, 0xC2, 0x20]
      (start { r0 with eax := 0x9ABCDEF0, edx := 0x12345678 } ⟨true, true, false, true, true, false⟩ [])
      (fun t => (t.regs.edx, t.flags.cf, t.flags.sf, t.flags.zf, t.flags.pf)) =
      some (0x12345678, true, true, true, true) := by decide

/-- `SHLD EDX, EAX, CL`: section 2.5. -/
theorem test_shld_edx_eax_cl :
    after [0x0F, 0xA5, 0xC2]
      (start { r0 with eax := 0x89ABCDEF, ecx := 0x24, edx := 0x1234567 } f0 [])
      (fun t => (t.regs.edx, t.flags.cf, t.flags.sf, t.flags.zf, t.flags.pf)) =
      some (0x12345678, false, false, false, true) := by decide

/-- `SHRD EAX, EDX, 8`: section 2.5. -/
theorem test_shrd_eax_edx_8 :
    after [0x0F, 0xAC, 0xD0, 0x08]
      (start { r0 with eax := 0x89ABCDEF, edx := 0x1234567 } f0 [])
      (fun t => (t.regs.eax, t.flags.cf, t.flags.sf, t.flags.zf, t.flags.pf)) =
      some (0x6789ABCD, true, false, false, false) := by decide

/-- `ROL EBX, 1`: section 2.6. -/
theorem test_rol_ebx_1 :
    after [0xD1, 0xC3]
      (start { r0 with ebx := 0x80000001 } f0 [])
      (fun t => (t.regs.ebx, t.flags.cf, t.flags.of)) =
      some (0x00000003, true, true) := by decide

/-- `ROL AL, 1`: section 2.6. -/
theorem test_rol_al_1 :
    after [0xD0, 0xC0]
      (start { r0 with eax := 0x40 } f0 [])
      (fun t => (t.regs.eax, t.flags.cf, t.flags.of)) =
      some (0x00000080, false, true) := by decide

/-- `ROL EAX, 4`: section 2.6. -/
theorem test_rol_eax_4 :
    after [0xC1, 0xC0, 0x04]
      (start { r0 with eax := 0x12345678 } f0 [])
      (fun t => (t.regs.eax, t.flags.cf)) =
      some (0x23456781, true) := by decide

/-- `ROL AL, 8`: section 2.6. -/
theorem test_rol_al_8 :
    after [0xC0, 0xC0, 0x08]
      (start { r0 with eax := 0x81 } f0 [])
      (fun t => (t.regs.eax, t.flags.cf)) =
      some (0x00000081, true) := by decide

/-- `ROL AL, 9`: section 2.6. -/
theorem test_rol_al_9 :
    after [0xC0, 0xC0, 0x09]
      (start { r0 with eax := 0x81 } f0 [])
      (fun t => (t.regs.eax, t.flags.cf)) =
      some (0x00000003, true) := by decide

/-- `ROL EAX, 32`: section 2.6. -/
theorem test_rol_eax_32 :
    after [0xC1, 0xC0, 0x20]
      (start { r0 with eax := 0x12345678 } { f0 with cf := true, of := true } [])
      (fun t => (t.regs.eax, t.flags.cf, t.flags.of)) =
      some (0x12345678, true, true) := by decide

/-- `ROR AL, 1`: section 2.6. -/
theorem test_ror_al_1 :
    after [0xD0, 0xC8]
      (start { r0 with eax := 0x1 } f0 [])
      (fun t => (t.regs.eax, t.flags.cf, t.flags.of)) =
      some (0x00000080, true, true) := by decide

/-- `ROR AL, 1`: section 2.6. -/
theorem test_ror_al_1_b :
    after [0xD0, 0xC8]
      (start { r0 with eax := 0xC0 } f0 [])
      (fun t => (t.regs.eax, t.flags.cf, t.flags.of)) =
      some (0x00000060, false, true) := by decide

/-- `ROR EAX, 1`: section 2.6. -/
theorem test_ror_eax_1 :
    after [0xD1, 0xC8]
      (start { r0 with eax := 0x1 } f0 [])
      (fun t => (t.regs.eax, t.flags.cf, t.flags.of)) =
      some (0x80000000, true, true) := by decide

/-- `ROR EAX, 1`: section 2.6. -/
theorem test_ror_eax_1_b :
    after [0xD1, 0xC8]
      (start { r0 with eax := 0x80000000 } f0 [])
      (fun t => (t.regs.eax, t.flags.cf, t.flags.of)) =
      some (0x40000000, false, true) := by decide

/-- `ROR EAX, 4`: section 2.6. -/
theorem test_ror_eax_4 :
    after [0xC1, 0xC8, 0x04]
      (start { r0 with eax := 0x12345678 } f0 [])
      (fun t => (t.regs.eax, t.flags.cf)) =
      some (0x81234567, true) := by decide

/-- `ROR AL, 8`: section 2.6. -/
theorem test_ror_al_8 :
    after [0xC0, 0xC8, 0x08]
      (start { r0 with eax := 0x81 } f0 [])
      (fun t => (t.regs.eax, t.flags.cf)) =
      some (0x00000081, true) := by decide

/-- `ROR AX, 16`: section 2.6. -/
theorem test_ror_ax_16 :
    after [0x66, 0xC1, 0xC8, 0x10]
      (start { r0 with eax := 0x1234 } f0 [])
      (fun t => (t.regs.eax, t.flags.cf)) =
      some (0x00001234, false) := by decide

/-- `RCL AL, 1`: section 2.6. -/
theorem test_rcl_al_1 :
    after [0xD0, 0xD0]
      (start { r0 with eax := 0x80 } f0 [])
      (fun t => (t.regs.eax, t.flags.cf, t.flags.of)) =
      some (0x00000000, true, true) := by decide

/-- `RCL AL, 1`: section 2.6. -/
theorem test_rcl_al_1_b :
    after [0xD0, 0xD0]
      (start { r0 with eax := 0x80 } { f0 with cf := true } [])
      (fun t => (t.regs.eax, t.flags.cf, t.flags.of)) =
      some (0x00000001, true, true) := by decide

/-- `RCL EAX, 1`: section 2.6. -/
theorem test_rcl_eax_1 :
    after [0xD1, 0xD0]
      (start r0 { f0 with cf := true } [])
      (fun t => (t.regs.eax, t.flags.cf, t.flags.of)) =
      some (0x00000001, false, false) := by decide

/-- `RCL AX, 1`: section 2.6. -/
theorem test_rcl_ax_1 :
    after [0x66, 0xD1, 0xD0]
      (start { r0 with eax := 0x4000 } f0 [])
      (fun t => (t.regs.eax, t.flags.cf, t.flags.of)) =
      some (0x00008000, false, true) := by decide

/-- `RCL EAX, 4`: section 2.6. -/
theorem test_rcl_eax_4 :
    after [0xC1, 0xD0, 0x04]
      (start { r0 with eax := 0x12345678 } { f0 with cf := true } [])
      (fun t => (t.regs.eax, t.flags.cf)) =
      some (0x23456788, true) := by decide

/-- `RCL AL, 8`: section 2.6. -/
theorem test_rcl_al_8 :
    after [0xC0, 0xD0, 0x08]
      (start { r0 with eax := 0xA5 } { f0 with cf := true } [])
      (fun t => (t.regs.eax, t.flags.cf)) =
      some (0x000000D2, true) := by decide

/-- `RCL AL, 9`: section 2.6. -/
theorem test_rcl_al_9 :
    after [0xC0, 0xD0, 0x09]
      (start { r0 with eax := 0xA5 } f0 [])
      (fun t => (t.regs.eax, t.flags.cf)) =
      some (0x000000A5, false) := by decide

/-- `RCL EAX, 31`: section 2.6. -/
theorem test_rcl_eax_31 :
    after [0xC1, 0xD0, 0x1F]
      (start r0 { f0 with cf := true } [])
      (fun t => (t.regs.eax, t.flags.cf)) =
      some (0x40000000, false) := by decide

/-- `RCR AL, 1`: section 2.6. -/
theorem test_rcr_al_1 :
    after [0xD0, 0xD8]
      (start { r0 with eax := 0x1 } f0 [])
      (fun t => (t.regs.eax, t.flags.cf, t.flags.of)) =
      some (0x00000000, true, false) := by decide

/-- `RCR AL, 1`: section 2.6. -/
theorem test_rcr_al_1_b :
    after [0xD0, 0xD8]
      (start { r0 with eax := 0x1 } { f0 with cf := true } [])
      (fun t => (t.regs.eax, t.flags.cf, t.flags.of)) =
      some (0x00000080, true, true) := by decide

/-- `RCR EAX, 1`: section 2.6. -/
theorem test_rcr_eax_1 :
    after [0xD1, 0xD8]
      (start r0 { f0 with cf := true } [])
      (fun t => (t.regs.eax, t.flags.cf, t.flags.of)) =
      some (0x80000000, false, true) := by decide

/-- `RCR EAX, 1`: section 2.6. -/
theorem test_rcr_eax_1_b :
    after [0xD1, 0xD8]
      (start { r0 with eax := 0x80000000 } f0 [])
      (fun t => (t.regs.eax, t.flags.cf, t.flags.of)) =
      some (0x40000000, false, true) := by decide

/-- `RCR EAX, 4`: section 2.6. -/
theorem test_rcr_eax_4 :
    after [0xC1, 0xD8, 0x04]
      (start { r0 with eax := 0x12345678 } { f0 with cf := true } [])
      (fun t => (t.regs.eax, t.flags.cf)) =
      some (0x11234567, true) := by decide

/-- `RCR AL, 8`: section 2.6. -/
theorem test_rcr_al_8 :
    after [0xC0, 0xD8, 0x08]
      (start { r0 with eax := 0xA5 } f0 [])
      (fun t => (t.regs.eax, t.flags.cf)) =
      some (0x0000004A, true) := by decide

/-- `RCR AL, 9`: section 2.6. -/
theorem test_rcr_al_9 :
    after [0xC0, 0xD8, 0x09]
      (start { r0 with eax := 0xA5 } { f0 with cf := true } [])
      (fun t => (t.regs.eax, t.flags.cf)) =
      some (0x000000A5, true) := by decide

/-- `RCR EAX, 31`: section 2.6. -/
theorem test_rcr_eax_31 :
    after [0xC1, 0xD8, 0x1F]
      (start { r0 with eax := 0x1 } f0 [])
      (fun t => (t.regs.eax, t.flags.cf)) =
      some (0x00000004, false) := by decide

/-- `SETC DL`: section 2.7. -/
theorem test_setc_dl :
    after [0x0F, 0x92, 0xC2]
      (start { r0 with edx := 0xFFFFFFFF } ⟨true, true, true, true, true, true⟩ [])
      (fun t => (t.regs.edx, t.flags)) =
      some (0xFFFFFF01, ⟨true, true, true, true, true, true⟩) := by decide

/-- `SETNC AH`: section 2.7. -/
theorem test_setnc_ah :
    after [0x0F, 0x93, 0xC4]
      (start r0 ⟨false, true, true, true, true, true⟩ [])
      (fun t => (t.regs.eax, t.flags)) =
      some (0x00000100, ⟨false, true, true, true, true, true⟩) := by decide

/-- `SETZ BYTE PTR [ESI]`: section 2.7. -/
theorem test_setz_byte_ptr_esi :
    after [0x0F, 0x94, 0x06]
      (start { r0 with esi := 0x1000 } ⟨true, true, true, true, true, true⟩
        [(0x1000, 0x7F), (0x1001, 0x01), (0x1002, 0x02), (0x1003, 0x03)])
      (fun t => (t.byteAt 0x1000, t.byteAt 0x1001, t.byteAt 0x1002, t.byteAt 0x1003, t.flags)) =
      some (0x01, 0x01, 0x02, 0x03, ⟨true, true, true, true, true, true⟩) := by decide

/-- `SETBE AL`: section 2.7. -/
theorem test_setbe_al :
    after [0x0F, 0x96, 0xC0]
      (start { r0 with eax := 0x55 } ⟨false, true, true, true, true, true⟩ [])
      (fun t => (t.regs.eax, t.flags)) =
      some (0x00000001, ⟨false, true, true, true, true, true⟩) := by decide

/-- `SETA AL`: section 2.7. -/
theorem test_seta_al :
    after [0x0F, 0x97, 0xC0]
      (start { r0 with eax := 0x55 } ⟨false, true, true, true, true, true⟩ [])
      (fun t => (t.regs.eax, t.flags)) =
      some (0x00000000, ⟨false, true, true, true, true, true⟩) := by decide

/-- `SETL AL`: section 2.7. -/
theorem test_setl_al :
    after [0x0F, 0x9C, 0xC0]
      (start { r0 with eax := 0x55 } ⟨true, true, true, true, true, false⟩ [])
      (fun t => (t.regs.eax, t.flags)) =
      some (0x00000001, ⟨true, true, true, true, true, false⟩) := by decide

/-- `SETGE AL`: section 2.7. -/
theorem test_setge_al :
    after [0x0F, 0x9D, 0xC0]
      (start { r0 with eax := 0x55 } ⟨true, true, true, true, true, true⟩ [])
      (fun t => (t.regs.eax, t.flags)) =
      some (0x00000001, ⟨true, true, true, true, true, true⟩) := by decide

/-- `SETLE AL`: section 2.7. -/
theorem test_setle_al :
    after [0x0F, 0x9E, 0xC0]
      (start { r0 with eax := 0x55 } ⟨true, true, true, false, false, false⟩ [])
      (fun t => (t.regs.eax, t.flags)) =
      some (0x00000000, ⟨true, true, true, false, false, false⟩) := by decide

/-- `SETG AL`: section 2.7. -/
theorem test_setg_al :
    after [0x0F, 0x9F, 0xC0]
      (start { r0 with eax := 0x55 } ⟨true, true, true, false, true, true⟩ [])
      (fun t => (t.regs.eax, t.flags)) =
      some (0x00000001, ⟨true, true, true, false, true, true⟩) := by decide

/-- `SETP AL`: section 2.7. -/
theorem test_setp_al :
    after [0x0F, 0x9A, 0xC0]
      (start { r0 with eax := 0x55 } ⟨true, true, true, true, true, true⟩ [])
      (fun t => (t.regs.eax, t.flags)) =
      some (0x00000001, ⟨true, true, true, true, true, true⟩) := by decide

/-- `IDIV ECX`: section 2.7. -/
theorem test_idiv_ecx :
    after [0xF7, 0xF9]
      (start { r0 with eax := 0xFFFFFFF7, ecx := 0x4, edx := 0xFFFFFFFF } f0 [])
      (fun t => (t.regs.eax, t.regs.ecx, t.regs.edx)) =
      some (0xFFFFFFFE, 0x00000004, 0xFFFFFFFF) := by decide

/-- `IDIV CL`: section 2.7. -/
theorem test_idiv_cl :
    after [0xF6, 0xF9]
      (start { r0 with eax := 0xFFF7, ecx := 0x4 } f0 [])
      (fun t => (t.regs.eax, t.regs.ecx)) =
      some (0x0000FFFE, 0x00000004) := by decide

/-- `IDIV CL`: section 2.7. -/
theorem test_idiv_cl_b :
    after [0xF6, 0xF9]
      (start { r0 with eax := 0xFF, ecx := 0x2 } f0 [])
      (fun t => (t.regs.eax, t.regs.ecx)) =
      some (0x0000017F, 0x00000002) := by decide

/-- `IDIV CX`: section 2.7. -/
theorem test_idiv_cx :
    after [0x66, 0xF7, 0xF9]
      (start { r0 with eax := 0x64, ecx := 0x7 } f0 [])
      (fun t => (t.regs.eax, t.regs.ecx, t.regs.edx)) =
      some (0x0000000E, 0x00000007, 0x00000002) := by decide

/-! ### Encodings that are refused (95_test_vectors.md section 3, 30_encoding.md R82, R89, R110) -/

theorem test_refused_bit_test_0 : rejects [0x0F, 0xBA, 0xC0, 0x01] .unknownExtension = true := by decide

theorem test_refused_shift_6 : rejects [0xD1, 0xF0] .unknownExtension = true := by decide

theorem test_refused_setc_reg_1 : rejects [0x0F, 0x92, 0xCA] .unknownExtension = true := by decide

theorem test_refused_test : rejects [0xF7, 0xC0, 0, 0, 0, 0] .unknownExtension = true := by decide

theorem test_refused_nop : rejects [0x90] .unknownOpcode = true := by decide

theorem test_refused_rep : rejects [0xF3, 0xF7, 0xD0] .repeatPrefix = true := by decide

theorem test_refused_second_segment : rejects [0x26, 0x2E, 0xF7, 0x16] .secondMark = true := by decide

theorem test_refused_scaled_no_index : rejects [0xF7, 0x14, 0x60] .scaledNoIndex = true := by decide

/-- LOCK with a register destination (R84). -/
theorem test_lock_register :
    faults (State.reset.load [0xF0, 0xF7, 0xD0] 3) (.invalidOpcode 0xFFF0) = true := by decide

/-! ### JC, JNC (95_test_vectors.md section 2.7) -/

/-- EIP = `e` and CF = `c`. -/
def jumper (e : Dword) (c : Bool) : State := { State.reset with eip := e, flags := { f0 with cf := c } }

theorem test_jc_taken : goes (.jcRel8 .empty .w32 0x05) (jumper 0x100 true) = some 0x107 := by decide

theorem test_jc_not_taken : goes (.jcRel8 .empty .w32 0x05) (jumper 0x100 false) = some 0x102 := by decide

theorem test_jnc_back : goes (.jncRel8 .empty .w32 0xF8) (jumper 0x106 false) = some 0x100 := by decide

theorem test_jnc_not_taken : goes (.jncRel8 .empty .w32 0xF8) (jumper 0x106 true) = some 0x108 := by decide

theorem test_jc_near : goes (.jcRelv .empty (.i32 0x100)) (jumper 0x100 true) = some 0x206 := by decide

theorem test_jnc_near_16 :
    goes (.jncRelv { Marks.empty with opsize := true } (.i16 0xFFF0)) (jumper 0x100 false) = some 0xF5 := by decide

/-! ### Faults and refusals of a step -/

theorem test_idiv_zero : faults (State.reset.load [0xF7, 0xF9] 2) .divideError = true := by decide

theorem test_idiv_too_large :
    faults ((start { r0 with eax := 0x80000000, ecx := 1 } f0 []).load [0xF7, 0xF9] 2) .divideError = true := by
  decide

/-- Nothing but the doubleword at 1000h is admitted for data. -/
def narrow (r : Regs) : State :=
  { start r f0 [] with params := { State.reset.params with grants := [⟨0x1000, 1, [4], [.read, .write]⟩] } }

/-- Admission by size (00_scope.md R7): the byte at FFFFh is admitted and the word there is not, as where an operand must
not run past offset FFFFh (60_exceptions.md R242). -/
theorem test_admit_by_size :
    let s : State := { State.reset with params := { State.reset.params with
      grants := [⟨0, 0x10000, [1], [.read]⟩, ⟨0, 0xFFFF, [2], [.read]⟩] } }
    s.admits 0xFFFF 1 .read = true ∧ s.admits 0xFFFE 2 .read = true ∧ s.admits 0xFFFF 2 .read = false ∧
      s.admits 0x10000 1 .read = false ∧ s.admits 0 4 .read = false ∧ s.admits 0 1 .write = false := by decide

/-- `BT DWORD PTR [EBX], EAX` with its unit not admitted. -/
theorem test_bt_not_admitted :
    faults ((narrow { r0 with ebx := 0x1000, eax := 0x20 }).load [0x0F, 0xA3, 0x03] 3)
      (.memFault 0x1004 4 .read) = true := by decide

/-- A write into the program text (20_memory.md R63). -/
theorem test_text_write :
    refuses ((start { r0 with esi := 0xFFF1 } f0 []).load [0xF6, 0x16] 2) (.textWrite 0xFFF1 1) = true := by decide

/-- A jump into the middle of an instruction (70_reset_and_hazards.md R276). -/
theorem test_mid_instruction :
    refuses ((start r0 { f0 with cf := true } []).load [0x72, 0x01, 0xF7, 0xD0] 4) (.midInstruction 0xFFF3) = true := by
  decide

/-- Nothing follows the end of the run, and reset has no program. -/
theorem test_reset_has_no_program : refuses State.reset .endOfRun = true := by decide

/-! ### Witnesses: states that meet the hypotheses of the statements, clause by clause -/

/-- `NOT EAX` loaded at EIP. -/
def notEax : State := State.reset.load [0xF7, 0xD0] 2

/-- Registers for the witnesses: ESI holds a data address, ECX a divisor. -/
def rw : Regs := { r0 with esi := 0x1000, eax := 0x00000007, ecx := 2 }

/-- A state whose data accesses are all admitted. -/
def open_ : State := start rw f0 [(0x1000, 0x81)]

/-- A state that admits no access. -/
def shut : State := { open_ with params := { State.reset.params with grants := [] } }

/-- A state that admits reads only. -/
def readOnly : State :=
  { open_ with params := { State.reset.params with grants := [⟨0, 2 ^ 32, [1, 2, 4], [.read, .fetch]⟩] } }

/-- The memory operand [ESI]. -/
def atEsi : MemOp := .a32 false (some .esi) none .none

/-- The longest instruction: LOCK XOR with all four marks, SIB, displacement and immediate. -/
def longest : Instr :=
  .xorRmvImmv ⟨true, true, some .gs, true⟩
    (.mem (.a32 true (some .eax) (some (.edi, .x8)) (.full 0x80000000))) (.i32 0xFFFFFFFF)

/-- The longest instruction at EIP under default sizes 16 and 16, its last byte past END_ADDR. -/
def cutOff : State :=
  { State.reset with params := { State.reset.params with sizes := ⟨.w16, .w16⟩ } }.load (encode longest) 14

theorem witness_decode_of_encode : longest.wf ⟨.w16, .w16⟩ = true := by decide

theorem witness_decode_consumes :
    ∃ i r, decode ⟨.w16, .w16⟩ (encode longest ++ [0x90]) = .ok (i, r) ∧ r = [0x90] := ⟨_, _, rfl, rfl⟩

theorem witness_mark_order :
    [(0x66 : Byte), 0xF0, 0x2E].Perm [0x2E, 0x66, 0xF0] ∧ ∀ b ∈ [(0x66 : Byte), 0xF0, 0x2E], isMark b = true := by
  decide

/-- A list of marks before the opcode; a mark repeated behind another one; two segment overrides. -/
theorem witness_reserved_marks :
    (∀ x ∈ [(0x66 : Byte), 0x2E], isMark x = true) ∧ (isMark 0xF0 = true ∧ sameKind 0xF0 0xF0 = true) ∧
    isMark 0x26 = true ∧ sameKind 0x26 0x65 = true := by decide

theorem witness_reserved_extensions :
    ((0xC0 : Byte) ∈ [(0xC0 : Byte), 0xC1, 0xD0, 0xD1, 0xD2, 0xD3] ∧ (0xF0 : Byte).extractLsb' 3 3 = 6) ∧
    ((0x80 : Byte) ∈ [(0x80 : Byte), 0x81, 0x83] ∧ (0xF8 : Byte).extractLsb' 3 3 ∈ [0#3, 2#3, 3#3, 5#3, 7#3]) ∧
    ((0xF7 : Byte) ∈ [(0xF6 : Byte), 0xF7] ∧ (0xC0 : Byte).extractLsb' 3 3 ∈ [0#3, 1#3, 3#3, 4#3, 5#3, 6#3]) ∧
    (0xD8 : Byte).extractLsb' 3 3 ∈ [0#3, 1#3, 2#3, 3#3] ∧
    (0x90 ≤ (0x9F : Byte).toNat ∧ (0x9F : Byte).toNat ≤ 0x9F ∧ (0xC8 : Byte).extractLsb' 3 3 ≠ 0) ∧
    (Opcode.layout (.one 0x00) = none ∧ isMark 0x00 = false ∧ (0x00 : Byte) ≠ 0x0F) ∧
    Opcode.layout (.esc 0x8F) = none := by decide

/-- With no mark at 32-bit defaults, and with 67 among the marks at 16-bit defaults. -/
theorem witness_reserved_sib :
    (Opcode.layout (.esc 0xBD) = some ⟨true, .no⟩ ∧ addrsizeUnder .flat32 [] = .w32 ∧
      addrsizeUnder ⟨.w16, .w16⟩ [0x66, 0x67] = .w32) ∧ (0x04 : Byte).extractLsb' 6 2 ≠ 3#2 ∧ (0x04 : Byte).extractLsb' 0 3 = 4#3 ∧
    (0x60 : Byte).extractLsb' 3 3 = 4#3 ∧ (0x60 : Byte).extractLsb' 6 2 ≠ 0#2 := by decide

/-- `LOCK NOT DWORD PTR [ESI]`, accepted. -/
theorem witness_lock_accepted :
    let s := State.reset.load [0xF0, 0xF7, 0x16] 3
    s.eip ≠ s.params.endAddr ∧ s.inText s.eip = true ∧
    ∃ i r, decodeRaw s.params.sizes (s.codeBytes 15 s.eip) = .ok (i, r) ∧ i.marks.lock = true ∧
      (withLock true i).isSome = true ∧ i.shape.mem.isSome = true :=
  ⟨by decide, by decide, .notRmv ⟨false, false, none, true⟩ .w32 (.mem atEsi), [], by rfl, rfl, rfl, rfl⟩

/-- `LOCK NOT EAX`: a register. -/
theorem witness_lock_on_register :
    let s := State.reset.load [0xF0, 0xF7, 0xD0] 3
    s.eip ≠ s.params.endAddr ∧ s.inText s.eip = true ∧
    ∃ i r, decodeRaw s.params.sizes (s.codeBytes 15 s.eip) = .ok (i, r) ∧ i.marks.lock = true ∧ i.shape.mem = none :=
  ⟨by decide, by decide, .notRmv ⟨false, false, none, true⟩ .w32 (.reg .eax), [], by rfl, rfl, rfl⟩

/-- `LOCK BT [ESI], 0`: a row that takes no LOCK. -/
theorem witness_lock_on_other_row :
    let s := State.reset.load [0xF0, 0x0F, 0xBA, 0x26, 0x00] 5
    s.eip ≠ s.params.endAddr ∧ s.inText s.eip = true ∧
    ∃ i r, decodeRaw s.params.sizes (s.codeBytes 15 s.eip) = .ok (i, r) ∧ i.marks.lock = true ∧
      (withLock true i).isSome = false :=
  ⟨by decide, by decide, .btRmvImm8 ⟨false, false, none, true⟩ .w32 (.mem atEsi) 0, [], by rfl, rfl, rfl⟩

theorem witness_lock_has_no_effect :
    ∃ i j t, withLock true i = some i ∧ withLock false i = some j ∧ exec j open_ = .next t :=
  ⟨.notRmv ⟨false, false, none, true⟩ .w32 (.mem atEsi), _, _, rfl, rfl, rfl⟩

/-- EIP at an instruction whose meaning answers a next state that ends the run. -/
theorem witness_step_ends :
    notEax.eip ≠ notEax.params.endAddr ∧ notEax.inText notEax.eip = true ∧
    ∃ i r t, decode notEax.params.sizes (notEax.codeBytes 15 notEax.eip) = .ok (i, r) ∧ exec i notEax = .next t ∧
      t.eip = notEax.params.endAddr :=
  ⟨by decide, by decide, .notRmv .empty .w32 (.reg .eax), [], _, by rfl, rfl, by decide⟩

/-- Two instructions loaded: the first leads to the second. -/
theorem witness_step_goes_on :
    let s := State.reset.load [0xF7, 0xD0, 0xF7, 0xD0] 4
    s.eip ≠ s.params.endAddr ∧ s.inText s.eip = true ∧
    ∃ i r t, decode s.params.sizes (s.codeBytes 15 s.eip) = .ok (i, r) ∧ exec i s = .next t ∧
      s.inText t.eip = true ∧ t.eip = s.eip + BitVec.ofNat 32 i.length :=
  ⟨by decide, by decide, .notRmv .empty .w32 (.reg .eax), [0xF7, 0xD0], _, by rfl, rfl, by decide, by decide⟩

/-- A jump to itself: an instruction's start that does not follow the instruction. -/
theorem witness_step_jumps :
    let s := (jumper 0x100 true).load [0x72, 0xFE] 2
    s.eip ≠ s.params.endAddr ∧ s.inText s.eip = true ∧
    ∃ i r t, decode s.params.sizes (s.codeBytes 15 s.eip) = .ok (i, r) ∧ exec i s = .next t ∧
      s.inText t.eip = true ∧ t.isStart t.eip = true ∧ t.eip ≠ s.eip + BitVec.ofNat 32 i.length :=
  ⟨by decide, by decide, .jcRel8 .empty .w32 0xFE, [], _, by rfl, rfl, by decide, by decide, by decide⟩

/-- A jump out of the text. -/
theorem witness_step_leaves :
    let s := (jumper 0x100 true).load [0x72, 0x05] 2
    s.eip ≠ s.params.endAddr ∧ s.inText s.eip = true ∧
    ∃ i r t, decode s.params.sizes (s.codeBytes 15 s.eip) = .ok (i, r) ∧ exec i s = .next t ∧
      t.eip ≠ s.params.endAddr ∧ s.inText t.eip = false :=
  ⟨by decide, by decide, .jcRel8 .empty .w32 0x05, [], _, by rfl, rfl, by decide, by decide⟩

/-- A jump into the middle of an instruction. -/
theorem witness_step_mid :
    let s := (jumper 0x100 true).load [0x72, 0x01, 0xF7, 0xD0] 4
    s.eip ≠ s.params.endAddr ∧ s.inText s.eip = true ∧
    ∃ i r t, decode s.params.sizes (s.codeBytes 15 s.eip) = .ok (i, r) ∧ exec i s = .next t ∧
      t.eip ≠ s.params.endAddr ∧ s.inText t.eip = true ∧ t.eip ≠ s.eip + BitVec.ofNat 32 i.length ∧
      t.isStart t.eip = false :=
  ⟨by decide, by decide, .jcRel8 .empty .w32 0x01, [0xF7, 0xD0], _, by rfl, rfl, by decide, by decide, by decide,
    by decide⟩

/-- An instruction that faults and one that is refused. -/
theorem witness_step_stops :
    exec (.idivRmv .empty .w32 (.reg .ebx)) open_ = .fault .divideError ∧
    exec (.jcRel8 .empty .w32 0x80) (jumper 0 true) = .refused .eipWrap := ⟨rfl, rfl⟩

theorem witness_outside_text :
    State.reset.eip = State.reset.params.endAddr ∧
    (jumper 0 true).eip ≠ (jumper 0 true).params.endAddr ∧ (jumper 0 true).inText (jumper 0 true).eip = false := by
  decide

/-- The first byte of an instruction, and its last one, not admitted for fetch. -/
theorem witness_fetch_faults :
    (let s : State := { notEax with params := { notEax.params with grants := [] } }
     s.eip ≠ s.params.endAddr ∧ s.inText s.eip = true ∧
     decode s.params.sizes ((List.range 0).map fun j => s.codeByte (s.eip + BitVec.ofNat 32 j)) = .error .truncated ∧
     s.admits (s.codeAddr (s.eip + BitVec.ofNat 32 0)) 1 .fetch = false) ∧
    let s : State := { notEax with params := { notEax.params with grants := [⟨notEax.eip, 1, [1], [.fetch]⟩] } }
    s.eip ≠ s.params.endAddr ∧ s.inText s.eip = true ∧
    (∀ j, j < 1 → s.inText (s.eip + BitVec.ofNat 32 j) = true ∧
      s.admits (s.codeAddr (s.eip + BitVec.ofNat 32 j)) 1 .fetch = true) ∧
    decode s.params.sizes ((List.range 1).map fun j => s.codeByte (s.eip + BitVec.ofNat 32 j)) = .error .truncated ∧
    s.inText (s.eip + BitVec.ofNat 32 1) = true ∧
    s.admits (s.codeAddr (s.eip + BitVec.ofNat 32 1)) 1 .fetch = false :=
  ⟨⟨by decide, by decide, rfl, by decide⟩, by decide, by decide, by decide, rfl, by decide, by decide⟩

/-- An instruction of fifteen bytes that END_ADDR cuts before its last one. -/
theorem witness_fetch_past_text :
    longest.length = 15 ∧ cutOff.eip ≠ cutOff.params.endAddr ∧ cutOff.inText cutOff.eip = true ∧
    (∀ j, j < 14 → cutOff.inText (cutOff.eip + BitVec.ofNat 32 j) = true ∧
      cutOff.admits (cutOff.codeAddr (cutOff.eip + BitVec.ofNat 32 j)) 1 .fetch = true) ∧
    decode cutOff.params.sizes ((List.range 14).map fun j => cutOff.codeByte (cutOff.eip + BitVec.ofNat 32 j)) =
      .error .truncated ∧
    cutOff.inText (cutOff.eip + BitVec.ofNat 32 14) = false :=
  ⟨by decide, by decide, by decide, by decide, rfl, by decide⟩

/-- Bytes that are no row, and a LOCK that is not accepted, at EIP. -/
theorem witness_step_refuses :
    (let s := State.reset.load [0x66, 0x90] 2
     s.eip ≠ s.params.endAddr ∧ s.inText s.eip = true ∧
     decode s.params.sizes (s.codeBytes 15 s.eip) = .error .unknownOpcode) ∧
    let s := State.reset.load [0xF0, 0xF7, 0xD0] 3
    s.eip ≠ s.params.endAddr ∧ s.inText s.eip = true ∧
    decode s.params.sizes (s.codeBytes 15 s.eip) = .error .lockNotAccepted :=
  ⟨⟨by decide, by decide, rfl⟩, by decide, by decide, rfl⟩

theorem witness_good_step : notEax.good = true ∧ ∃ t, step notEax = .next t :=
  ⟨by decide, _, rfl⟩

theorem witness_good_run :
    let s := State.reset.load [0xF7, 0xD0, 0xF6, 0x16] 4
    s.good = true ∧ s.inText s.eip = true ∧ ∃ t, Host.Core.run Sys2Proof.core 2 s = .next t :=
  ⟨by decide, by decide, _, rfl⟩

theorem witness_loaded_word :
    let s := jumper 0xFFFFFFF0 false
    Memory.wf s.mem = true ∧ s.eip.toNat + 15 < 2 ^ 32 ∧
    ∃ i r, decode s.params.sizes (tableBytes 16 0xD0F7) = .ok (i, r) :=
  ⟨by decide, by decide, _, _, rfl⟩

theorem witness_store_then_load :
    Memory.wf [(0xFFFFFFFF, (0x81 : Byte))] = true ∧ 32 ∈ [8, 16, 32] ∧ 3 < 32 / 8 ∧
    32 / 8 ≤ ((0x3 : Dword) - 0xFFFFFFFF).toNat := by decide

/-- A read that is not admitted, and a write that is not though the read is. -/
theorem witness_unadmitted :
    (∃ u, useOf (.notRm8 .empty (.mem atEsi)) shut = some u ∧ u.place = .mem 0x1000 ∧ u.rd = true ∧
      shut.hitsText 0x1000 (u.w / 8) = false ∧ shut.admits 0x1000 (u.w / 8) .read = false) ∧
    ∃ u, useOf (.notRm8 .empty (.mem atEsi)) readOnly = some u ∧ u.place = .mem 0x1000 ∧ u.wr = true ∧
      readOnly.hitsText 0x1000 (u.w / 8) = false ∧ readOnly.admits 0x1000 (u.w / 8) .read = true ∧
      readOnly.admits 0x1000 (u.w / 8) .write = false :=
  ⟨⟨_, rfl, by decide, rfl, by decide, by decide⟩, _, rfl, by decide, rfl, by decide, by decide, by decide⟩

/-- A word whose upper byte alone is in the text. -/
theorem witness_text_write :
    let s := (start { r0 with esi := 0xFFEF } f0 []).load [0xF7, 0xD0] 2
    ∃ u, useOf (.notRmv { Marks.empty with opsize := true } .w16 (.mem atEsi)) s = some u ∧ u.place = .mem 0xFFEF ∧
      u.wr = true ∧ s.hitsText 0xFFEF (u.w / 8) = true :=
  ⟨_, rfl, by decide, rfl, by decide⟩

/-- A size that the machine accesses, and one predicate that depends on it. -/
theorem witness_admission :
    2 ∈ [1, 2, 4] ∧ ∃ allowed : Dword → Nat → AccessKind → Bool, allowed 0xFFFF 1 .read ≠ allowed 0xFFFF 2 .read :=
  ⟨by decide, fun _ n _ => decide (n = 1), by decide⟩

/-- The frames: an instruction that goes on, a byte outside its operand, a register it does not write. -/
theorem witness_frames :
    Memory.wf open_.mem = true ∧ (∃ t, exec (.notRm8 .empty (.mem atEsi)) open_ = .next t) ∧
    Reg.esi ∉ destRegs (.notRm8 .empty (.mem atEsi)) ∧
    (∃ u, useOf (.notRm8 .empty (.mem atEsi)) open_ = some u ∧ u.wr = true ∧ u.place = .mem 0x1000) ∧
    ¬ Place.covers (.mem 0x1000) 8 0x1001 :=
  ⟨by decide, ⟨_, rfl⟩, by decide, ⟨_, rfl, rfl, by decide⟩, by unfold Place.covers; decide⟩

/-- The flags' frame: an instruction of each clause that goes on. -/
theorem witness_flag_frame :
    (∃ t, exec (.seto .empty (.reg .al)) open_ = .next t) ∧ (∃ t, exec (.jcRel8 .empty .w32 0) open_ = .next t) ∧
    (∃ b t, countView (.shlRm8Imm8 .empty (.reg .al) 0x20) open_ = some b ∧ b.c = 0 ∧
      exec (.shlRm8Imm8 .empty (.reg .al) 0x20) open_ = .next t) ∧
    (∃ b t, doubleView (.shldRmvRvImm8 .empty .w32 (.reg .eax) .ecx 0x20) open_ = some b ∧ b.c = 0 ∧
      exec (.shldRmvRvImm8 .empty .w32 (.reg .eax) .ecx 0x20) open_ = .next t) ∧
    ∃ b t, countView (.rcrRm8Imm8 .empty (.reg .al) 0x1F) open_ = some b ∧ b.op ∈ [.rol, .ror, .rcl, .rcr] ∧
      exec (.rcrRm8Imm8 .empty (.reg .al) 0x1F) open_ = .next t :=
  ⟨⟨_, rfl⟩, ⟨_, rfl⟩, ⟨_, _, rfl, by decide, rfl⟩, ⟨_, _, rfl, by decide, rfl⟩, _, _, rfl, by decide, rfl⟩

theorem witness_not :
    (∃ u, notView (.notRm8 .empty (.mem atEsi)) open_ = some u ∧ u.ready open_) ∧ Memory.wf open_.mem = true :=
  ⟨⟨_, rfl, And.intro (fun _ => rfl) (fun _ => rfl)⟩, by decide⟩

theorem witness_logic :
    (∃ b, logicView (.xorRmvImm8sx .empty .w32 (.mem atEsi) 0x80) open_ = some b ∧ b.use.ready open_) ∧
    (∃ b, logicView (.andR8Rm8 .empty .bh (.mem atEsi)) open_ = some b ∧ b.use.ready open_) ∧
    Memory.wf open_.mem = true :=
  ⟨⟨_, rfl, And.intro (fun _ => rfl) (fun _ => rfl)⟩, ⟨_, rfl, And.intro (fun _ => rfl) (fun _ => rfl)⟩, by decide⟩

theorem witness_bit_test :
    (∃ b, bitView (.btRmvRv .empty .w32 (.mem atEsi) .ecx) open_ = some b ∧ b.use.ready open_ ∧ b.op = .test) ∧
    (∃ b, bitView (.btcRmvImm8 .empty .w32 (.mem atEsi) 0xFF) open_ = some b ∧ b.use.ready open_ ∧ b.index = 31) ∧
    Memory.wf open_.mem = true :=
  ⟨⟨_, rfl, And.intro (fun _ => rfl) (fun _ => rfl), rfl⟩,
    ⟨_, rfl, And.intro (fun _ => rfl) (fun _ => rfl), by decide⟩, by decide⟩

/-- An offset of minus one in a register: the bit below the operand. -/
theorem witness_bit_string :
    let s := start { rw with ecx := 0xFFFFFFFF } f0 []
    ∃ (b : BitView) (x : BitVec b.w), bitView (.btRmvRv .empty .w32 (.mem atEsi) .ecx) s = some b ∧
      b.base = .mem 0x1000 ∧ b.off = .inl x ∧ x.toInt = -1 :=
  ⟨_, _, rfl, by decide, rfl, by decide⟩

theorem witness_bit_scan :
    (∃ b, scanView (.bsfRvRmv .empty .w32 .eax (.mem atEsi)) open_ = some b ∧ b.use.ready open_ ∧
      b.src.read b.w open_ ≠ 0) ∧
    ∃ b, scanView (.bsrRvRmv .empty .w32 .eax (.reg .ebx)) open_ = some b ∧ b.use.ready open_ ∧
      b.src.read b.w open_ = 0 :=
  ⟨⟨_, rfl, And.intro (fun _ => rfl) (fun _ => rfl), by decide⟩,
    _, rfl, And.intro (fun _ => rfl) (fun _ => rfl), by decide⟩

/-- The byte at [ESI] may be read and written. -/
theorem ready_open (wr : Bool) : Use.ready ⟨place8 .empty (.mem atEsi) open_, 8, true, wr⟩ open_ :=
  And.intro (fun _ => by decide +revert) (fun _ => by decide +revert)

/-- The shifts of a byte in memory at every immediate count, and counts 0, 1, w - 1, w and 31 among them. -/
theorem witness_shifts :
    Memory.wf open_.mem = true ∧
    (∀ x, ∃ b, countView (.shlRm8Imm8 .empty (.mem atEsi) x) open_ = some b ∧ b.op = .shl ∧ b.use.ready open_ ∧
      b.w = 8 ∧ b.c = fiveBits x) ∧
    (∀ x, ∃ b, countView (.shrRm8Imm8 .empty (.mem atEsi) x) open_ = some b ∧ b.op = .shr ∧ b.use.ready open_ ∧
      b.w = 8 ∧ b.c = fiveBits x) ∧
    (∀ x, ∃ b, countView (.sarRm8Imm8 .empty (.mem atEsi) x) open_ = some b ∧ b.op = .sar ∧ b.use.ready open_ ∧
      b.w = 8 ∧ b.c = fiveBits x) ∧
    [0x20, 1, 7, 8, 0xFF].map fiveBits = [0, 1, 7, 8, 31] :=
  ⟨by decide, fun _ => ⟨_, rfl, rfl, ready_open _, rfl, rfl⟩,
    fun _ => ⟨_, rfl, rfl, ready_open _, rfl, rfl⟩,
    fun _ => ⟨_, rfl, rfl, ready_open _, rfl, rfl⟩, by decide⟩

/-- The counts of the two laws of SAR, the width of the full turn and the bit number of the flags' places, at both ends
of their ranges. -/
theorem witness_ranges :
    (1 ≤ 1 ∧ 1 < 8) ∧ (1 ≤ 31 ∧ 31 < 32) ∧ (0 < 1 ∧ 1 < 32) ∧ (0 < 31 ∧ 31 < 32) ∧ 0 < 1 ∧ 0 < 32 ∧ 31 < 32 := by decide

/-- The double shifts at effective counts 0, w - 1 and w. -/
theorem witness_double_shift :
    Memory.wf open_.mem = true ∧
    (∃ b, doubleView (.shldRmvRvImm8 .empty .w16 (.mem atEsi) .eax 0x20) open_ = some b ∧ b.use.ready open_ ∧
      b.c = 0) ∧
    (∃ b, doubleView (.shrdRmvRvImm8 .empty .w16 (.mem atEsi) .eax 0x0F) open_ = some b ∧ b.use.ready open_ ∧
      b.c ≠ 0 ∧ b.c < b.w) ∧
    ∃ b, doubleView (.shldRmvRvImm8 .empty .w16 (.mem atEsi) .eax 0x10) open_ = some b ∧ b.use.ready open_ ∧
      b.w ≤ b.c :=
  ⟨by decide, ⟨_, rfl, And.intro (fun _ => rfl) (fun _ => rfl), by decide⟩,
    ⟨_, rfl, And.intro (fun _ => rfl) (fun _ => rfl), by decide, by decide⟩,
    _, rfl, And.intro (fun _ => rfl) (fun _ => rfl), by decide⟩

theorem witness_shift_64 : 1 ≤ (0x1F : Byte).toNat ∧ (0x1F : Byte).toNat ≤ 31 := by decide

/-- The rotates of a byte in memory at every immediate count, and counts 0, 1, w and w + 1 among them. -/
theorem witness_rotates :
    Memory.wf open_.mem = true ∧
    (∀ x, ∃ b, countView (.rolRm8Imm8 .empty (.mem atEsi) x) open_ = some b ∧ b.op = .rol ∧ b.use.ready open_ ∧
      b.w = 8 ∧ b.c = fiveBits x) ∧
    (∀ x, ∃ b, countView (.rorRm8Imm8 .empty (.mem atEsi) x) open_ = some b ∧ b.op = .ror ∧ b.use.ready open_ ∧
      b.w = 8 ∧ b.c = fiveBits x) ∧
    (∀ x, ∃ b, countView (.rclRm8Imm8 .empty (.mem atEsi) x) open_ = some b ∧ b.op = .rcl ∧ b.use.ready open_ ∧
      b.w = 8 ∧ b.c = fiveBits x) ∧
    (∀ x, ∃ b, countView (.rcrRm8Imm8 .empty (.mem atEsi) x) open_ = some b ∧ b.op = .rcr ∧ b.use.ready open_ ∧
      b.w = 8 ∧ b.c = fiveBits x) ∧
    [0x20, 1, 8, 9].map fiveBits = [0, 1, 8, 9] :=
  ⟨by decide, fun _ => ⟨_, rfl, rfl, ready_open _, rfl, rfl⟩,
    fun _ => ⟨_, rfl, rfl, ready_open _, rfl, rfl⟩,
    fun _ => ⟨_, rfl, rfl, ready_open _, rfl, rfl⟩,
    fun _ => ⟨_, rfl, rfl, ready_open _, rfl, rfl⟩, by decide⟩

theorem witness_set :
    (∃ cc x, setView (.setnle .empty (.mem atEsi)) open_ = some (cc, x) ∧ x.writable 8 open_ = true) ∧
    Memory.wf open_.mem = true :=
  ⟨⟨_, _, rfl, rfl⟩, by decide⟩

/-- The jumps: not taken; taken to address 0 and to the last address; taken past either end. -/
theorem witness_jump :
    (∃ b, jumpView (.jcRel8 .empty .w32 0xFE) = some b ∧ (jumper 0 false).flags.cf ≠ b.onCarry) ∧
    (∃ b, jumpView (.jcRel8 .empty .w32 0xFE) = some b ∧ (jumper 0 true).flags.cf = b.onCarry ∧
      (((jumper 0 true).eip + 2).toNat : Int) + b.rel = 0) ∧
    (∃ b, jumpView (.jncRel8 .empty .w32 0x7F) = some b ∧ (jumper 0xFFFFFF7E false).flags.cf = b.onCarry ∧
      (((jumper 0xFFFFFF7E false).eip + 2).toNat : Int) + b.rel = 2 ^ 32 - 1) ∧
    (∃ b, jumpView (.jcRel8 .empty .w32 0xFD) = some b ∧ (jumper 0 true).flags.cf = b.onCarry ∧
      (((jumper 0 true).eip + 2).toNat : Int) + b.rel < 0) ∧
    ∃ b, jumpView (.jncRel8 .empty .w32 0x7F) = some b ∧ (jumper 0xFFFFFF7F false).flags.cf = b.onCarry ∧
      2 ^ 32 ≤ (((jumper 0xFFFFFF7F false).eip + 2).toNat : Int) + b.rel :=
  ⟨⟨_, rfl, by decide⟩, ⟨_, rfl, rfl, by decide⟩, ⟨_, rfl, rfl, by decide⟩, ⟨_, rfl, rfl, by decide⟩,
    _, rfl, rfl, by decide⟩

/-- IDIV CL with AX = 00FFh by 2 (quotient 127, the largest), 0100h by 2 (too large), FF00h by 2 (exactly -128), by 0. -/
theorem witness_divide :
    let div := Instr.idivRm8 .empty (.reg .cl)
    let go (a : Dword) : State := start { r0 with eax := a, ecx := 2 } f0 []
    (∃ b, divideView div (go 0xFF) = some b ∧ b.use.ready (go 0xFF) ∧ b.divisor (go 0xFF) ≠ 0 ∧
      fits b.w ((b.dividend (go 0xFF)).tdiv (b.divisor (go 0xFF))) ∧
      (b.dividend (go 0xFF)).tdiv (b.divisor (go 0xFF)) ≠ -2 ^ (b.w - 1)) ∧
    (∃ b, divideView div (go 0x100) = some b ∧ b.use.ready (go 0x100) ∧ b.divisor (go 0x100) ≠ 0 ∧
      ¬ fits b.w ((b.dividend (go 0x100)).tdiv (b.divisor (go 0x100)))) ∧
    (∃ b, divideView div (go 0xFF00) = some b ∧ b.use.ready (go 0xFF00) ∧ b.divisor (go 0xFF00) ≠ 0 ∧
      (b.dividend (go 0xFF00)).tdiv (b.divisor (go 0xFF00)) = -2 ^ (b.w - 1)) ∧
    ∃ b, divideView div State.reset = some b ∧ b.use.ready State.reset ∧ b.divisor State.reset = 0 :=
  ⟨⟨_, rfl, And.intro (fun _ => rfl) (fun _ => rfl), by decide, by unfold fits; decide, by decide⟩,
    ⟨_, rfl, And.intro (fun _ => rfl) (fun _ => rfl), by decide, by unfold fits; decide⟩,
    ⟨_, rfl, And.intro (fun _ => rfl) (fun _ => rfl), by decide, by decide⟩,
    _, rfl, And.intro (fun _ => rfl) (fun _ => rfl), by decide⟩

end Sys2Proof.Tests
end

section
/-! PROOFS. The register file (10_state.md R21 to R23): which bits a register's name reads, and what a write to a register
changes and leaves alone. -/

namespace Sys2Proof.Machine

/-- The whole of a register, read at width 32 (R22). -/
@[simp] theorem Regs.getW_32 (g : Regs) (r : Reg) : g.getW 32 r = g.get r := BitVec.setWidth_eq _

/-- A register read at a narrower width is its field from bit 0 on (R22). -/
theorem Regs.getW_eq_extractLsb' (g : Regs) {w : Nat} (hw : w ≤ 32) (r : Reg) :
    g.getW w r = (g.get r).extractLsb' 0 w := BitVec.setWidth_eq_extractLsb' hw

/-- A byte write changes no bit outside the byte register's own eight (R23). -/
theorem Regs.getLsbD_set8_of_not_coversBit (g : Regs) (r : Reg8) (v : Byte) {q : Reg} {j : Nat}
    (h : ¬ Place.coversBit (.byteReg r) 8 q j) : ((g.set8 r v).get q).getLsbD j = (g.get q).getLsbD j := by
  by_cases hq : q = Reg8.whole r
  · subst hq
    exact Regs.getLsbD_set8_outside g r v fun hj => h ⟨rfl, hj⟩
  · rw [Regs.get_set8_other g v hq]

/-- A write of `w` bits changes no bit outside the low `w` of its register (R23). -/
theorem Regs.getLsbD_setW_of_not_coversBit (g : Regs) {w : Nat} (hw : w ≤ 32) (r : Reg) (v : BitVec w) {q : Reg}
    {j : Nat} (h : ¬ Place.coversBit (.reg r) w q j) : ((g.setW r v).get q).getLsbD j = (g.get q).getLsbD j := by
  by_cases hq : q = r
  · subst hq
    exact Regs.getLsbD_setW_above g hw q v (Nat.le_of_not_lt fun hj => h ⟨rfl, hj⟩)
  · rw [Regs.get_setW_other g v hq]

/-- A byte register reads back what was written, and nothing else changes (R23). -/
theorem Place.writesOnly_byteReg (r : Reg8) (v : Byte) (s : State) :
    WritesOnly (.byteReg r) v s (Place.write (.byteReg r) v s) := by
  refine ⟨?readBack, fun _ _ => rfl, fun q j h => ?frame⟩
  case readBack => simp [Place.read]
  case frame => exact Regs.getLsbD_set8_of_not_coversBit s.regs r _ h

/-- A register reads back what was written at any width it has, and nothing else changes (R23). -/
theorem Place.writesOnly_reg {w : Nat} (hw : w ≤ 32) (r : Reg) (v : BitVec w) (s : State) :
    WritesOnly (.reg r) v s (Place.write (.reg r) v s) :=
  ⟨Regs.getW_setW_self s.regs hw r v, fun _ _ => rfl,
    fun _ _ h => Regs.getLsbD_setW_of_not_coversBit s.regs hw r v h⟩

/-- Settles O18: the byte names are one kind of register place, the two wider widths the other. -/
theorem registerWrites : Obligations.RegisterWrites := fun s =>
  ⟨fun r v => Place.writesOnly_byteReg r v s, fun r v => Place.writesOnly_reg (by decide) r v s,
    fun r v => Place.writesOnly_reg (by decide) r v s⟩

/-- Settles O17: the byte registers' names by the table of `Reg8.whole` and `Reg8.low` (R21). -/
theorem registerReads : Obligations.RegisterReads := fun g =>
  ⟨Regs.getW_32 g, Regs.getW_eq_extractLsb' g (by decide), rfl, rfl, rfl, rfl, rfl, rfl, rfl, rfl⟩

end Sys2Proof.Machine
end

section
/-! PROOFS. The linear address of a memory operand (20_memory.md R55). Each term of the sum is the word of an integer:
the lemmas `*_eq_ofInt` say of which, and a sum of such words is the word of the sum. -/

namespace Sys2Proof.Machine

/-! ### Words of integers -/

/-- The word of an integer is the integer modulo the word's size. -/
theorem toNat_eq_emod_of_eq_ofInt {w : Nat} {x : BitVec w} {n : Int} (h : x = BitVec.ofInt w n) :
    (x.toNat : Int) = n % 2 ^ w := by
  have hpos : (0 : Int) < 2 ^ w := by positivity
  rw [h, BitVec.toNat_ofInt, Nat.cast_pow, Nat.cast_ofNat, Int.toNat_of_nonneg (Int.emod_nonneg n hpos.ne')]

/-- Every word is the word of its unsigned value. -/
theorem eq_ofInt_toNat {w : Nat} (x : BitVec w) : x = BitVec.ofInt w x.toNat := by simp

/-! ### The integers that are added up (R55) -/

/-- A displacement as a signed integer. -/
def Disp.signed {n : Nat} : Disp n → Int
  | .none => 0
  | .d8 d => d.toInt
  | .full d => d.toInt

/-- The base register of 32-bit addressing, 0 when there is none. -/
def Regs.base32 (g : Regs) : Option Reg → Int
  | none => 0
  | some b => (g.get b).toNat

/-- The scaled index of 32-bit addressing, 0 when there is none. -/
def Regs.index32 (g : Regs) : Option (Reg × Scale) → Int
  | none => 0
  | some (x, .x1) => (g.get x).toNat
  | some (x, .x2) => (g.get x).toNat * 2
  | some (x, .x4) => (g.get x).toNat * 4
  | some (x, .x8) => (g.get x).toNat * 8

/-- The base register of 16-bit addressing, 0 when there is none. -/
def Regs.base16 (g : Regs) : Option Base16 → Int
  | none => 0
  | some .bx => (g.getW 16 .ebx).toNat
  | some .bp => (g.getW 16 .ebp).toNat

/-- The index register of 16-bit addressing, 0 when there is none. -/
def Regs.index16 (g : Regs) : Option Index16 → Int
  | none => 0
  | some .si => (g.getW 16 .esi).toNat
  | some .di => (g.getW 16 .edi).toNat

/-- Sign extension keeps a displacement's signed value. -/
theorem Disp.value_eq_ofInt {n : Nat} (d : Disp n) : Disp.value d = BitVec.ofInt n (Disp.signed d) := by
  cases d with
  | none => exact (BitVec.ofInt_ofNat n 0).symm
  | d8 d => rfl
  | full d => exact BitVec.ofInt_toInt.symm

/-- A register times its scale's factor is the word of the integer product. -/
theorem Regs.scaled_eq_ofInt (g : Regs) (x : Reg) (k : Scale) :
    g.get x * BitVec.ofNat 32 (Scale.factor k) = BitVec.ofInt 32 (g.index32 (some (x, k))) := by
  have product : g.get x * BitVec.ofNat 32 (Scale.factor k) =
      BitVec.ofInt 32 ((g.get x).toNat * (Scale.factor k : Int)) := by
    rw [BitVec.ofInt_mul, ← eq_ofInt_toNat, BitVec.ofInt_natCast]
  cases k with
  | x1 => rw [product, Scale.factor, Nat.cast_one, mul_one]; rfl
  | x2 | x4 | x8 => exact product

/-! ### Offset, segment and linear address (R55) -/

/-- The offset in 32-bit addressing. -/
theorem MemOp.offset_a32_eq_ofInt (g : Regs) (sib : Bool) (base : Option Reg) (index : Option (Reg × Scale))
    (disp : Disp 32) : MemOp.offset (.a32 sib base index disp) g =
      BitVec.ofInt 32 (g.base32 base + g.index32 index + Disp.signed disp) := by
  rw [BitVec.ofInt_add, BitVec.ofInt_add, ← Disp.value_eq_ofInt]
  refine congrArg₂ (fun b i : Dword => b + i + Disp.value disp) ?base ?index
  case base =>
    cases base with
    | none => rfl
    | some b => exact eq_ofInt_toNat (g.get b)
  case index =>
    cases index with
    | none => rfl
    | some xk => exact g.scaled_eq_ofInt xk.1 xk.2

/-- The offset in 16-bit addressing, before it is widened to 32 bits. -/
theorem MemOp.offset_a16_eq_ofInt (g : Regs) (base : Option Base16) (index : Option Index16) (disp : Disp 16) :
    MemOp.offset (.a16 base index disp) g =
      (BitVec.ofInt 16 (g.base16 base + g.index16 index + Disp.signed disp)).setWidth 32 := by
  rw [BitVec.ofInt_add, BitVec.ofInt_add, ← Disp.value_eq_ofInt]
  refine congrArg₂ (fun b i : HalfWord => (b + i + Disp.value disp).setWidth 32) ?base ?index
  case base =>
    match base with
    | none => rfl
    | some .bx | some .bp => exact eq_ofInt_toNat (g.getW 16 _)
  case index =>
    match index with
    | none => rfl
    | some .si | some .di => exact eq_ofInt_toNat (g.getW 16 _)

/-- The segment in 32-bit addressing: the override's, else SS for base ESP or EBP, else DS. -/
theorem MemOp.seg_a32 (p : Marks) (sib : Bool) (base : Option Reg) (index : Option (Reg × Scale)) (disp : Disp 32) :
    MemOp.seg (.a32 sib base index disp) p =
      p.seg.getD (if base = some .esp ∨ base = some .ebp then .ss else .ds) := by
  refine congrArg p.seg.getD ?_
  cases base with
  | none => rfl
  | some b => cases b <;> rfl

/-- The segment in 16-bit addressing: the override's, else SS for base BP, else DS. -/
theorem MemOp.seg_a16 (p : Marks) (base : Option Base16) (index : Option Index16) (disp : Disp 16) :
    MemOp.seg (.a16 base index disp) p = p.seg.getD (if base = some .bp then .ss else .ds) := by
  refine congrArg p.seg.getD ?_
  match base with
  | none | some .bx | some .bp => rfl

/-- A linear address is the segment's base plus the offset, modulo 2^32. -/
theorem MemOp.toNat_addr (m : MemOp) (p : Marks) (s : State) :
    ((MemOp.addr m p s).toNat : Int) =
      ((SegBases.base s.params.segBase (MemOp.seg m p)).toNat + (MemOp.offset m s.regs).toNat) % 2 ^ 32 := by
  simp [MemOp.addr, State.linear]

/-- The linear address in 32-bit addressing: one sum, taken modulo 2^32. -/
theorem MemOp.toNat_addr_a32 (p : Marks) (s : State) (sib : Bool) (base : Option Reg) (index : Option (Reg × Scale))
    (disp : Disp 32) :
    ((MemOp.addr (.a32 sib base index disp) p s).toNat : Int) =
      ((SegBases.base s.params.segBase (MemOp.seg (.a32 sib base index disp) p)).toNat + s.regs.base32 base +
        s.regs.index32 index + Disp.signed disp) % 2 ^ 32 := by
  rw [MemOp.toNat_addr, toNat_eq_emod_of_eq_ofInt (MemOp.offset_a32_eq_ofInt s.regs sib base index disp),
    Int.add_emod_emod, ← add_assoc, ← add_assoc]

/-- The linear address in 16-bit addressing: the offset is taken modulo 2^16 before the segment's base is added. -/
theorem MemOp.toNat_addr_a16 (p : Marks) (s : State) (base : Option Base16) (index : Option Index16)
    (disp : Disp 16) :
    ((MemOp.addr (.a16 base index disp) p s).toNat : Int) =
      ((SegBases.base s.params.segBase (MemOp.seg (.a16 base index disp) p)).toNat +
        (s.regs.base16 base + s.regs.index16 index + Disp.signed disp) % 2 ^ 16) % 2 ^ 32 := by
  rw [MemOp.toNat_addr, MemOp.offset_a16_eq_ofInt, BitVec.toNat_setWidth_of_le (by decide),
    toNat_eq_emod_of_eq_ofInt rfl]

/-- Settles O22: the sum and the segment of each address size; on each kind of displacement the named integers are the
terms that the statement writes out. -/
theorem effectiveAddress : Obligations.EffectiveAddress := by
  refine fun p s => ⟨fun sib base index disp => ?a32, fun base index disp => ?a16⟩
  case a32 =>
    rw [MemOp.toNat_addr_a32, MemOp.seg_a32]
    cases disp <;> rfl
  case a16 =>
    rw [MemOp.toNat_addr_a16, MemOp.seg_a16]
    cases disp <;> rfl

end Sys2Proof.Machine
end

section
/-! PROOFS. Writing an operand, wherever it is: it reads back what was written, and nothing else changes (10_state.md R23,
20_memory.md R51). -/

namespace Sys2Proof.Machine

/-! ### A load after a store (20_memory.md R50, R51) -/

/-- When the `n` bytes from `a` on are the base-256 digits of `v`, they load as its low `n` digits. -/
theorem Memory.loadNat_eq_mod {m : Memory} (n : Nat) (a : Dword) (v : Nat)
    (h : ∀ k, k < n → Memory.byte m (a + BitVec.ofNat 32 k).toNat = BitVec.ofNat 8 (v / 256 ^ k)) :
    Memory.loadNat m n a = v % 256 ^ n := by
  induction n generalizing a v with
  | zero => rw [Memory.loadNat, pow_zero, Nat.mod_one]
  | succ n ih =>
    have lowest : (Memory.byte m a.toNat).toNat = v % 256 := by
      simpa using congrArg BitVec.toNat (h 0 n.succ_pos)
    have higher : Memory.loadNat m n (a + 1) = v / 256 % 256 ^ n := by
      refine ih (a + 1) (v / 256) fun k hk => ?_
      have next : a + 1 + BitVec.ofNat 32 k = a + BitVec.ofNat 32 (k + 1) := by
        rw [BitVec.add_assoc, Nat.add_comm, BitVec.ofNat_add]; rfl
      rw [next, h (k + 1) (Nat.succ_lt_succ hk), pow_succ', Nat.div_div_eq_div_mul]
    rw [Memory.loadNat, lowest, higher, pow_succ', Nat.mod_mul]

/-- A load reads back what a store of whole bytes put at the same address. -/
theorem Memory.load_store {m : Memory} (h : Memory.wf m = true) {w : Nat} (hw : 8 * (w / 8) = w)
    (hsize : w / 8 ≤ 2 ^ 32) (a : Dword) (v : BitVec w) : Memory.load (Memory.store m a v) w a = v := by
  have digits : Memory.loadNat (Memory.store m a v) (w / 8) a = v.toNat % 256 ^ (w / 8) :=
    Memory.loadNat_eq_mod _ a _ fun k hk => Memory.byte_storeNat_same h _ a _ k hsize hk
  have whole : 256 ^ (w / 8) = 2 ^ w := by
    rw [show 256 = 2 ^ 8 from rfl, ← pow_mul, hw]
  rw [Memory.load, digits, whole, Nat.mod_eq_of_lt v.isLt, BitVec.ofNat_toNat, BitVec.setWidth_eq]

/-! ### The widths of an operand (20_memory.md R56) -/

/-- The widths at which an operand at a place is read and written. -/
def Place.widths : Place → List Nat
  | .byteReg _ => [8]
  | .reg _ => [16, 32]
  | .mem _ => [8, 16, 32]

/-- A byte register has 8 bits. -/
theorem eight_mem_widths_byteReg (r : Reg8) : 8 ∈ (Place.byteReg r).widths := List.mem_singleton_self 8

/-- The R/M operand of a byte form has 8 bits. -/
theorem eight_mem_widths_place8 (p : Marks) (x : Rm8) (s : State) : 8 ∈ (place8 p x s).widths := by
  cases x <;> simp [place8, Place.widths]

/-- A register has the bits of either operand size. -/
theorem bits_mem_widths_reg (v : OpSize) (r : Reg) : v.bits ∈ (Place.reg r).widths := by
  cases v <;> simp [Place.widths]

/-- The R/M operand of a word or doubleword form has the bits of its operand size. -/
theorem bits_mem_widths_placeV (v : OpSize) (p : Marks) (x : Rmv) (s : State) :
    v.bits ∈ (placeV p x s).widths := by
  cases x with
  | reg r => exact bits_mem_widths_reg v r
  | mem m => cases v <;> simp [placeV, Place.widths]

/-! ### Writing an operand -/

/-- Memory reads back what was written at any width it has, and nothing else changes (R51). -/
theorem Place.writesOnly_mem {s : State} (h : Memory.wf s.mem = true) {w : Nat} (hw : 8 * (w / 8) = w)
    (hsize : w / 8 ≤ 2 ^ 32) (a : Dword) (v : BitVec w) : WritesOnly (.mem a) v s (Place.write (.mem a) v s) :=
  ⟨Memory.load_store h hw hsize a v,
    fun b hb => Memory.byte_storeNat_other h _ a _ b hsize (Nat.le_of_not_lt hb), fun _ _ _ => rfl⟩

/-- An operand reads back what was written, and nothing else changes. -/
theorem Place.writesOnly_write {s : State} (h : Memory.wf s.mem = true) (x : Place) {w : Nat} (hw : w ∈ x.widths)
    (v : BitVec w) : WritesOnly x v s (x.write v s) := by
  cases x with
  | byteReg r =>
    obtain rfl : w = 8 := by simpa [Place.widths] using hw
    exact Place.writesOnly_byteReg r v s
  | reg r =>
    have : w = 16 ∨ w = 32 := by simpa [Place.widths] using hw
    exact Place.writesOnly_reg (by omega) r v s
  | mem a =>
    have : w = 8 ∨ w = 16 ∨ w = 32 := by simpa [Place.widths] using hw
    exact Place.writesOnly_mem h (by omega) (by omega) a v

/-- The end of an instruction touches no operand. -/
theorem WritesOnly.finish {x : Place} {w : Nat} {v : BitVec w} {s t : State} (h : WritesOnly x v s t) (f : Flags)
    (drawn len : Nat) : WritesOnly x v s (t.finish f drawn len) := by
  obtain ⟨readBack, bytes, bits⟩ := h
  exact ⟨(Place.read_finish t f drawn len x w).trans readBack, bytes, bits⟩

/-- An instruction that writes one operand and ends moves EIP past itself and keeps the parameters. -/
theorem advances_write_finish (i : Instr) (s : State) (x : Place) {w : Nat} (v : BitVec w) (f : Flags) (drawn : Nat) :
    Advances i s ((x.write v s).finish f drawn i.length) :=
  ⟨by simp, by simp⟩

/-- A draw of an instruction that writes one operand and ends with at least that many draws is drawn by it. -/
theorem drawn_undef_write_finish (s : State) (x : Place) {w : Nat} (v : BitVec w) (f : Flags) {k drawn : Nat}
    (hk : k < drawn) (len : Nat) : Drawn (s.undef k) s ((x.write v s).finish f drawn len) :=
  ⟨s.draws + k, Nat.le_add_right _ _, by simpa using hk, rfl⟩

end Sys2Proof.Machine
end

section
/-! PROOFS. The checks that stand before an instruction's effect, for the one operand that may be in memory (20_memory.md
R51, R65): what they let through and where they fault. -/

namespace Sys2Proof.Machine

/-- The checks of an operand's use before the effect `k`. -/
def Use.guard (u : Use) (s : State) (k : Out) : Out := access u.place u.w u.rd u.wr s k

/-- Admitted accesses let the effect through. -/
theorem Use.guard_of_ready {u : Use} {s : State} (h : u.ready s) (k : Out) : u.guard s k = k :=
  access_of_admitted k h.1 h.2

/-- An instruction that begins with the checks of a use faults where they do. -/
theorem memFaults_of_exec_eq_guard {i : Instr} {s : State} {u : Use} {k : Out} (h : exec i s = u.guard s k) :
    MemFaults i s u := by
  obtain ⟨x, w, rd, wr⟩ := u
  rintro a rfl htext
  dsimp only at htext ⊢
  rw [h]
  refine ⟨fun hrd hno => ?read, fun hwr hread hno => ?write⟩
  case read =>
    subst hrd
    cases wr <;> simp_all [Use.guard, access, raise]
  case write =>
    subst hwr
    cases rd <;> simp_all [Use.guard, access, raise]

end Sys2Proof.Machine
end

section
/-! PROOFS. SF, ZF and PF of a result (10_state.md R26). -/

namespace Sys2Proof.Machine

/-- An exclusive or over a list says whether the number of true entries is odd. -/
theorem foldl_xor_eq_decide_countP (p : Nat → Bool) (l : List Nat) (acc : Bool) :
    l.foldl (fun acc k => acc ^^ p k) acc = (acc ^^ decide (l.countP p % 2 = 1)) := by
  induction l generalizing acc with
  | nil => simp
  | cons x l ih =>
    rw [List.foldl_cons, ih, List.countP_cons]
    cases p x with
    | false => simp
    | true =>
      have parity : decide ((l.countP p + 1) % 2 = 1) = !decide (l.countP p % 2 = 1) := by
        rw [← decide_not, decide_eq_decide]; omega
      simp [parity]

/-- `parity8` holds exactly when the low-order byte has an even number of 1 bits. -/
theorem parity8_iff {w : Nat} (r : BitVec w) :
    parity8 r = true ↔ ((List.range 8).countP fun k => r.getLsbD k) % 2 = 0 := by
  rw [parity8, foldl_xor_eq_decide_countP, Bool.true_xor, Bool.not_eq_true', decide_eq_false_iff_not]
  exact Nat.mod_two_ne_one

/-- `szp` gives the result's SF, ZF and PF, whatever the other three flags are. -/
theorem hasSzp_szp {w : Nat} (r : BitVec w) (cf af of : Bool) : HasSzp r (szp r cf af of) :=
  ⟨BitVec.msb_eq_getLsbD_last r, decide_eq_true_iff, parity8_iff r⟩

end Sys2Proof.Machine
end

section
/-! PROOFS. NOT, AND, OR and XOR (40_boolean.md R120 to R126). Each form is the checks of its one operand that may be in
memory and then one write: `exec_of_notView` and `exec_of_logicView` say so once for all forms. -/

namespace Sys2Proof.Claims

open Sys2Proof.Machine

/-! ### NOT -/

/-- Both forms of NOT: the checks, then the complement written back with the flags as they were. -/
theorem exec_of_notView {i : Instr} {s : State} {u : Use} (h : notView i s = some u) :
    exec i s = u.guard s (.next ((u.place.write (~~~u.place.read u.w s) s).finish s.flags 0 i.length)) := by
  unfold notView at h
  split at h <;> cases h <;> rfl

/-- The operand of NOT has the width of its form. -/
theorem mem_widths_of_notView {i : Instr} {s : State} {u : Use} (h : notView i s = some u) : u.w ∈ u.place.widths := by
  unfold notView at h
  split at h <;> cases h <;> simp only [eight_mem_widths_place8, bits_mem_widths_placeV]

/-- Settles O30: the write of the complement, whose bits are the inverted ones. -/
theorem notResult : Obligations.NotResult := by
  intro i s u hview hwf
  have hexec := exec_of_notView hview
  refine ⟨fun hready => ?_, memFaults_of_exec_eq_guard hexec⟩
  rw [Use.guard_of_ready hready] at hexec
  have written := Place.writesOnly_write hwf u.place (mem_widths_of_notView hview) (~~~u.place.read u.w s)
  exact ⟨_, hexec, ⟨_, fun j hj => by simp [hj], written.finish _ _ _⟩, rfl, advances_write_finish i s _ _ _ _⟩

/-! ### AND, OR and XOR -/

/-- AND, OR and XOR on words. -/
def LogicOp.word {w : Nat} : LogicOp → BitVec w → BitVec w → BitVec w
  | .and, x, y => x &&& y
  | .or, x, y => x ||| y
  | .xor, x, y => x ^^^ y

/-- The operation on words is the operation on each bit. -/
theorem LogicOp.getLsbD_word (op : LogicOp) {w : Nat} (x y : BitVec w) (j : Nat) :
    (op.word x y).getLsbD j = op.bit (x.getLsbD j) (y.getLsbD j) := by
  cases op with
  | and => exact BitVec.getLsbD_and
  | or => exact BitVec.getLsbD_or
  | xor => exact BitVec.getLsbD_xor

/-- What AND, OR and XOR write to the destination. -/
def LogicView.result (b : LogicView) (s : State) : BitVec b.w := b.op.word (b.dst.read b.w s) b.src

/-- All 27 forms: the checks, then the result written to the destination with its flags. The destination of a form that
loads from an R/M operand is a register, which needs no check. -/
theorem exec_of_logicView {i : Instr} {s : State} {b : LogicView} (h : logicView i s = some b) :
    exec i s =
      b.use.guard s (.next ((b.dst.write (b.result s) s).finish (logicFlags (b.result s) s) 1 i.length)) := by
  unfold logicView at h
  split at h <;> cases h <;> rfl

/-- The destination of AND, OR and XOR has the width of its form. -/
theorem mem_widths_of_logicView {i : Instr} {s : State} {b : LogicView} (h : logicView i s = some b) :
    b.w ∈ b.dst.widths := by
  unfold logicView at h
  split at h <;> cases h <;>
    simp only [eight_mem_widths_place8, eight_mem_widths_byteReg, bits_mem_widths_placeV, bits_mem_widths_reg]

/-- Settles O31: the write of the result, with `logicFlags`, whose AF is the one draw. -/
theorem logicResult : Obligations.LogicResult := by
  intro i s b hview hwf
  have hexec := exec_of_logicView hview
  refine ⟨fun hready => ?_, memFaults_of_exec_eq_guard hexec⟩
  rw [Use.guard_of_ready hready] at hexec
  have written := Place.writesOnly_write hwf b.dst (mem_widths_of_logicView hview) (b.result s)
  exact ⟨_, hexec,
    ⟨_, fun j _ => b.op.getLsbD_word _ _ j, written.finish _ _ _, hasSzp_szp _ _ _ _⟩,
    rfl, rfl, drawn_undef_write_finish s _ _ _ Nat.one_pos _, advances_write_finish i s _ _ _ _⟩

end Sys2Proof.Claims
end

section
/-! PROOFS. Draws of their own (00_scope.md R12), and a word's signed value modulo its width (41_bit_test.md R142). -/

namespace Sys2Proof.Machine

/-- Different draws of an instruction that draws as many are drawn apart. -/
theorem drawnApart_undef {s t : State} {ks : List Nat} (hks : ks.Nodup) (h : ∀ k ∈ ks, s.draws + k < t.draws) :
    DrawnApart (ks.map s.undef) s t := by
  refine ⟨ks.map (s.draws + ·), hks.map (add_right_injective s.draws), fun d hd => ?within, List.map_map.symm⟩
  case within =>
    obtain ⟨k, hk, rfl⟩ := List.mem_map.mp hd
    exact ⟨Nat.le_add_right _ _, h k hk⟩

/-- An operand width is a power of two, with an exponent below itself. -/
theorem dvd_two_pow_of_mem_widths {x : Place} {w : Nat} (h : w ∈ x.widths) : w ∣ 2 ^ w := by
  have : w = 8 ∨ w = 16 ∨ w = 32 := by cases x <;> simp_all [Place.widths]
  obtain rfl | rfl | rfl := this <;> decide

/-- Modulo a divisor of `2^w` a word's signed value is its unsigned one. -/
theorem toInt_emod_of_dvd {w n : Nat} (hn : n ∣ 2 ^ w) (x : BitVec w) : x.toInt % n = (x.toNat % n : Nat) := by
  have unsigned : (x.toNat : Int) = x.toInt % 2 ^ w :=
    toNat_eq_emod_of_eq_ofInt BitVec.ofInt_toInt.symm
  have hn : (n : Int) ∣ 2 ^ w := by exact_mod_cast hn
  rw [Int.natCast_mod, unsigned, Int.emod_emod_of_dvd _ hn]

end Sys2Proof.Machine
end

section
/-! PROOFS. BT, BTS, BTR and BTC (41_bit_test.md R140 to R148). `exec_of_bitView` says of all eight forms that they are
the checks of the unit, then at most one write of it, then the flags. That the model's selection of the unit and the bit is
the view's turns on the width dividing `2^w`: reading the offset as signed does not change it modulo the width. -/

namespace Sys2Proof.Claims

open Sys2Proof.Machine

/-! ### The selected bit (R142, R143) -/

/-- The unit and the bit's number as the model selects them. -/
def BitView.select (b : BitView) : Place × Nat :=
  match b.off with
  | .inl x => selectByReg b.w b.base x
  | .inr x => selectByImm b.w b.base x

/-- The model selects the unit and the bit of the view. -/
theorem BitView.select_eq {b : BitView} (hw : b.w ∈ b.base.widths) : b.select = (b.unit, b.index) := by
  obtain ⟨op, w, base, x | x⟩ := b
  case inr => cases base <;> rfl
  case inl =>
    have modWidth : (x.toInt % w).toNat = x.toNat % w := by
      rw [toInt_emod_of_dvd (dvd_two_pow_of_mem_widths hw), Int.toNat_natCast]
    cases base with
    | byteReg r => exact congrArg (Prod.mk _) modWidth.symm
    | reg r => exact congrArg (Prod.mk _) modWidth.symm
    | mem a =>
      simp [BitView.select, selectByReg, BitView.unit, BitView.index, BitView.offset, Int.fdiv_eq_ediv_of_nonneg,
        Int.fmod_eq_emod_of_nonneg]

/-- The unit is an operand of the same kind as the base. -/
theorem BitView.widths_unit (b : BitView) : b.unit.widths = b.base.widths := by
  obtain ⟨op, w, base, x | x⟩ := b <;> cases base <;> rfl

/-- The base of a bit test has the width of its form. -/
theorem mem_widths_of_bitView {i : Instr} {s : State} {b : BitView} (h : bitView i s = some b) :
    b.w ∈ b.base.widths := by
  unfold bitView at h
  split at h <;> cases h <;> exact bits_mem_widths_placeV _ _ _ _

/-! ### What the forms do (R144 to R147) -/

/-- The new value of a unit `x` under the mask `m` of the selected bit. -/
def BitOp.word {w : Nat} : BitOp → BitVec w → BitVec w → BitVec w
  | .test, x, _ => x
  | .set, x, m => x ||| m
  | .reset, x, m => x &&& ~~~m
  | .complement, x, m => x ^^^ m

/-- The bits in the mask get their new values, every other bit stays. -/
theorem BitOp.getLsbD_word (op : BitOp) {w : Nat} (x m : BitVec w) {j : Nat} (hj : j < w) :
    (op.word x m).getLsbD j = if m.getLsbD j then op.new (x.getLsbD j) else x.getLsbD j := by
  cases op with
  | test => exact (ite_self _).symm
  | set => rw [BitOp.word, BitVec.getLsbD_or]; cases m.getLsbD j <;> simp [BitOp.new]
  | reset =>
    rw [BitOp.word, BitVec.getLsbD_and, BitVec.getLsbD_not, decide_eq_true hj]
    cases m.getLsbD j <;> simp [BitOp.new]
  | complement => rw [BitOp.word, BitVec.getLsbD_xor]; cases m.getLsbD j <;> simp [BitOp.new]

/-- The mask `1 << k` holds bit `k` alone. -/
theorem getLsbD_one_shiftLeft {w : Nat} (k : Nat) {j : Nat} (hj : j < w) :
    (1#w <<< k).getLsbD j = decide (j = k) := by
  rw [← BitVec.twoPow_eq, BitVec.getLsbD_twoPow]
  by_cases h : j = k
  · subst h; simp [hj]
  · simp [h, Ne.symm h]

/-- What the bit test leaves of the unit at `x` whose bit `k` is selected: BT does not write it. -/
def BitOp.store (op : BitOp) (w : Nat) (x : Place) (k : Nat) (s : State) : State :=
  if op.writes then x.write (op.word (x.read w s) (1#w <<< k)) s else s

/-- BT changes no data. -/
@[simp] theorem BitOp.store_test (w : Nat) (x : Place) (k : Nat) (s : State) : BitOp.test.store w x k s = s := rfl

@[simp] theorem BitOp.store_eip (op : BitOp) (w : Nat) (x : Place) (k : Nat) (s : State) :
    (op.store w x k s).eip = s.eip := by
  unfold BitOp.store; split <;> simp
@[simp] theorem BitOp.store_draws (op : BitOp) (w : Nat) (x : Place) (k : Nat) (s : State) :
    (op.store w x k s).draws = s.draws := by
  unfold BitOp.store; split <;> simp
@[simp] theorem BitOp.store_params (op : BitOp) (w : Nat) (x : Place) (k : Nat) (s : State) :
    (op.store w x k s).params = s.params := by
  unfold BitOp.store; split <;> simp

/-- The unit comes to hold its new value, the old one for BT, and nothing else changes. -/
theorem BitOp.writesOnly_store (op : BitOp) {w : Nat} {x : Place} (hw : w ∈ x.widths) (k : Nat) {s : State}
    (hwf : Memory.wf s.mem = true) : WritesOnly x (op.word (x.read w s) (1#w <<< k)) s (op.store w x k s) := by
  cases op with
  | test => exact ⟨rfl, fun _ _ => rfl, fun _ _ _ => rfl⟩
  | set | reset | complement => exact Place.writesOnly_write hwf x hw _

/-- All eight forms: the checks of the unit, what the form leaves of it, and its flags. -/
theorem exec_of_bitView {i : Instr} {s : State} {b : BitView} (h : bitView i s = some b) :
    exec i s = b.use.guard s (.next ((b.op.store b.w b.unit b.index s).finish
      (bitTestFlags ((b.unit.read b.w s).getLsbD b.index) s) 5 i.length)) := by
  have selected : exec i s = access b.select.1 b.w true b.op.writes s
      (.next ((b.op.store b.w b.select.1 b.select.2 s).finish
        (bitTestFlags ((b.select.1.read b.w s).getLsbD b.select.2) s) 5 i.length)) := by
    unfold bitView at h
    split at h <;> cases h <;> rfl
  rwa [BitView.select_eq (mem_widths_of_bitView h)] at selected

/-- Settles O32: the store of the unit, with `bitTestFlags`, whose other five flags are draws 0 to 4. -/
theorem bitTestResult : Obligations.BitTestResult := by
  intro i s b hview hwf
  have hexec := exec_of_bitView hview
  refine ⟨fun hready => ?_, memFaults_of_exec_eq_guard hexec⟩
  rw [Use.guard_of_ready hready] at hexec
  have hw : b.w ∈ b.unit.widths := b.widths_unit ▸ mem_widths_of_bitView hview
  have written := b.op.writesOnly_store hw b.index hwf
  refine ⟨_, hexec, rfl, fun htest => ?noData, ⟨_, fun j hj => ?newBit, written.finish _ _ _⟩, ?draws,
    ?advances⟩
  case noData => simp [SameData, htest]
  case newBit => simp [BitOp.getLsbD_word _ _ _ hj, getLsbD_one_shiftLeft _ hj]
  case draws => exact drawnApart_undef (ks := List.range 5) List.nodup_range (by simp)
  case advances => simp [Advances]

end Sys2Proof.Claims
end

section
/-! PROOFS. A drawn word and drawn bits of their own (00_scope.md R12), the bits of an operand size (42_bit_scan.md
R160), and the first entry of an ordered list that a test accepts. -/

namespace Sys2Proof.Machine

/-- A word and bits by different draws of an instruction that draws as many are drawn apart. -/
theorem drawnWordApart_undef {s t : State} {w k : Nat} {ks : List Nat} (hks : (k :: ks).Nodup)
    (h : ∀ j ∈ k :: ks, s.draws + j < t.draws) : DrawnWordApart (s.undefW w k) (ks.map s.undef) s t := by
  refine ⟨s.draws + k, ks.map (s.draws + ·), hks.map (add_right_injective s.draws), fun d hd => ?within, rfl,
    List.map_map.symm⟩
  case within =>
    obtain ⟨j, hj, rfl⟩ := List.mem_map.mp (List.map_cons ▸ hd)
    exact ⟨Nat.le_add_right _ _, h j hj⟩

/-- No operand size has more bits than a register. -/
theorem opSize_bits_le (v : OpSize) : v.bits ≤ 32 := by cases v <;> decide

/-- In a list in the order `r`, no entry before the one that `find?` returns passes the test. -/
theorem eq_false_of_find?_eq_some_of_pairwise {r : Nat → Nat → Prop} (asymm : ∀ {j k}, r j k → ¬ r k j)
    {p : Nat → Bool} {l : List Nat} (hl : l.Pairwise r) {j k : Nat} (hk : l.find? p = some k) (hj : j ∈ l)
    (hjk : r j k) : p j = false := by
  obtain ⟨-, before, after, rfl, rejected⟩ := List.find?_eq_some_iff_append.mp hk
  obtain ⟨-, hafter, -⟩ := List.pairwise_append.mp hl
  rcases List.mem_append.mp hj with hbefore | hfrom
  · simpa using rejected j hbefore
  · rcases List.mem_cons.mp hfrom with rfl | hlater
    · exact absurd hjk (asymm hjk)
    · exact absurd (List.rel_of_pairwise_cons hafter hlater) (asymm hjk)

end Sys2Proof.Machine
end

section
/-! PROOFS. BSF and BSR (42_bit_scan.md R160 to R163). `exec_of_scanView` says of both forms that they are the checks of
the source, then one write of the destination register, then the flags; both search the bit numbers in the order of
their scan. -/

namespace Sys2Proof.Claims

open Sys2Proof.Machine

/-! ### The search (R161, R162) -/

/-- The bit numbers of the source in the order of the scan. -/
def ScanView.order (b : ScanView) : List Nat := if b.fromTop then (List.range b.w).reverse else List.range b.w

/-- The first set bit of `x` in the order of the scan. -/
def ScanView.find (b : ScanView) (x : BitVec b.w) : Option Nat := b.order.find? fun k => x.getLsbD k

/-- The scan passes every bit number below the width. -/
theorem ScanView.mem_order {b : ScanView} {k : Nat} : k ∈ b.order ↔ k < b.w := by
  unfold ScanView.order
  split <;> simp

/-- A scan from the top passes the bit numbers downwards, the other one upwards. -/
theorem ScanView.pairwise_order (b : ScanView) :
    b.order.Pairwise fun j k => if b.fromTop then k < j else j < k := by
  obtain ⟨fromTop, w, dst, src⟩ := b
  cases fromTop with
  | false => exact List.pairwise_lt_range
  | true => exact List.pairwise_reverse.mpr List.pairwise_lt_range

/-- The scan of zero finds nothing. -/
theorem ScanView.find_zero (b : ScanView) : b.find 0 = none := by simp [ScanView.find]

/-- The scan of a non-zero source finds a set bit. -/
theorem ScanView.exists_find_eq_some {b : ScanView} {x : BitVec b.w} (hx : x ≠ 0) : ∃ k, b.find x = some k := by
  refine Option.ne_none_iff_exists'.mp fun hnone => hx (BitVec.eq_of_getLsbD_eq fun k hk => ?_)
  simpa using List.find?_eq_none.mp hnone k (ScanView.mem_order.mpr hk)

/-- What the scan finds is a set bit of the source with no set bit before it. -/
theorem ScanView.first_of_find_eq_some {b : ScanView} {x : BitVec b.w} {k : Nat} (h : b.find x = some k) :
    k < b.w ∧ x.getLsbD k = true ∧
      ∀ j, j < b.w → (if b.fromTop then k < j else j < k) → x.getLsbD j = false := by
  refine ⟨ScanView.mem_order.mp (List.mem_of_find?_eq_some h), List.find?_some (p := x.getLsbD) h,
    fun j hj hjk => ?before⟩
  case before =>
    refine eq_false_of_find?_eq_some_of_pairwise (fun hab hba => ?asymm) b.pairwise_order h
      (ScanView.mem_order.mpr hj) hjk
    case asymm => cases htop : b.fromTop <;> rw [htop] at hab hba <;> exact Nat.lt_asymm hab hba

/-! ### What both forms do -/

/-- What the scan writes to its destination: the index found, or a drawn word. -/
def ScanView.result (b : ScanView) (s : State) : BitVec b.w :=
  match b.find (b.src.read b.w s) with
  | none => s.undefW b.w 0
  | some k => BitVec.ofNat b.w k

/-- Both forms: the checks of the source, then the result written to the destination with its flags. -/
theorem exec_of_scanView {i : Instr} {s : State} {b : ScanView} (h : scanView i s = some b) :
    exec i s = b.use.guard s (.next ((Place.write (.reg b.dst) (b.result s) s).finish
      (bitScanFlags (b.find (b.src.read b.w s)).isNone s) 6 i.length)) := by
  have scanned : exec i s = bitScan b.w b.find (.reg b.dst) b.src i.length s := by
    unfold scanView at h
    split at h <;> cases h <;> rfl
  rw [scanned, bitScan, Use.guard, ScanView.result]
  cases b.find (b.src.read b.w s) <;> rfl

/-- The operands of a bit scan have 16 or 32 bits. -/
theorem width_le_of_scanView {i : Instr} {s : State} {b : ScanView} (h : scanView i s = some b) : b.w ≤ 32 := by
  unfold scanView at h
  split at h <;> cases h <;> exact opSize_bits_le _

/-- Settles O34: the write of the result, with `bitScanFlags`. The word for a zero source is draw 0, the five flags are
draws 1 to 5. -/
theorem bitScanResult : Obligations.BitScanResult := by
  intro i s b hview
  have hexec := exec_of_scanView hview
  refine ⟨fun hready => ?_, memFaults_of_exec_eq_guard hexec⟩
  rw [Use.guard_of_ready hready] at hexec
  have written := (Place.writesOnly_reg (width_le_of_scanView hview) b.dst (b.result s) s).finish
    (bitScanFlags (b.find (b.src.read b.w s)).isNone s) 6 i.length
  refine ⟨_, hexec, rfl, fun hzero => ?zero, fun hne => ?nonzero, advances_write_finish i s _ _ _ _⟩
  case zero =>
    have hfind : b.find (b.src.read b.w s) = none := hzero ▸ b.find_zero
    have hresult : b.result s = s.undefW b.w 0 := by rw [ScanView.result, hfind]
    refine ⟨by rw [hfind]; rfl, b.result s, ?draws, written⟩
    case draws =>
      rw [hresult]
      exact drawnWordApart_undef (ks := [1, 2, 3, 4, 5]) (by decide) (by simp)
  case nonzero =>
    obtain ⟨k, hfind⟩ := ScanView.exists_find_eq_some hne
    obtain ⟨hk, hset, hfirst⟩ := ScanView.first_of_find_eq_some hfind
    have hresult : b.result s = BitVec.ofNat b.w k := by rw [ScanView.result, hfind]
    exact ⟨by rw [hfind]; rfl, k, hk, hset, hfirst, hresult ▸ written,
      drawnApart_undef (ks := [1, 2, 3, 4, 5]) (by decide) (by simp)⟩

end Sys2Proof.Claims
end

section
/-! PROOFS. The repeated one-bit steps of the shifts in closed form (43_shift.md R173 to R175): the word after `c` steps is
one shift by `c`, and CF is the bit that the last of them shifted out. -/

namespace Sys2Proof.Machine

/-- The last of `c + 1` steps comes after the first `c`. -/
theorem repeatBit_succ_last {w : Nat} (g : BitVec w → Bool → BitVec w × Bool) (c : Nat) (v : BitVec w) (f : Bool) :
    repeatBit g (c + 1) v f = g (repeatBit g c v f).1 (repeatBit g c v f).2 := by
  induction c generalizing v f with
  | zero => rfl
  | succ c ih => exact ih (g v f).1 (g v f).2

/-! ### SHL (R173) -/

/-- `c` places left one at a time are a shift by `c`. -/
theorem repeatBit_shlBit_fst {w : Nat} (c : Nat) (v : BitVec w) (f : Bool) : (repeatBit shlBit c v f).1 = v <<< c := by
  induction c with
  | zero => exact (BitVec.shiftLeft_zero v).symm
  | succ c ih => rw [repeatBit_succ_last, shlBit, ih, BitVec.shiftLeft_add]

/-- The last of `c` places left shifts out bit `w - c`. -/
theorem repeatBit_shlBit_snd {w c : Nat} (h0 : c ≠ 0) (hc : c ≤ w) (v : BitVec w) (f : Bool) :
    (repeatBit shlBit c v f).2 = v.getLsbD (w - c) := by
  obtain ⟨k, rfl⟩ := Nat.exists_eq_succ_of_ne_zero h0
  rw [repeatBit_succ_last, repeatBit_shlBit_fst, shlBit, BitVec.msb_shiftLeft, BitVec.getMsbD_eq_getLsbD,
    decide_eq_true (Nat.lt_of_succ_le hc), Bool.true_and, Nat.sub_sub, Nat.add_comm]

/-! ### SHR (R174) -/

/-- `c` places right one at a time are a shift by `c`. -/
theorem repeatBit_shrBit_fst {w : Nat} (c : Nat) (v : BitVec w) (f : Bool) : (repeatBit shrBit c v f).1 = v >>> c := by
  induction c with
  | zero => exact (BitVec.ushiftRight_zero v).symm
  | succ c ih => rw [repeatBit_succ_last, shrBit, ih, BitVec.shiftRight_add]

/-- The last of `c` places right shifts out bit `c - 1`. -/
theorem repeatBit_shrBit_snd {w c : Nat} (h0 : c ≠ 0) (v : BitVec w) (f : Bool) :
    (repeatBit shrBit c v f).2 = v.getLsbD (c - 1) := by
  obtain ⟨k, rfl⟩ := Nat.exists_eq_succ_of_ne_zero h0
  rw [repeatBit_succ_last, repeatBit_shrBit_fst, shrBit, BitVec.getLsbD_ushiftRight]
  rfl

/-! ### SAR (R175) -/

/-- One place right that keeps the sign is an arithmetic shift by 1. -/
theorem sarBit_fst {w : Nat} (v : BitVec w) (f : Bool) : (sarBit v f).1 = v.sshiftRight 1 := by
  refine BitVec.eq_of_getLsbD_eq fun j hj => ?_
  simp only [sarBit, BitVec.getLsbD_or, BitVec.getLsbD_ushiftRight, BitVec.getLsbD_shiftLeft, BitVec.getLsbD_setWidth,
    BitVec.getLsbD_ofBool, BitVec.getLsbD_sshiftRight]
  by_cases hlast : 1 + j < w
  · have below : j < w - 1 := by omega
    simp [hlast, below, hj]
  · obtain rfl : j = w - 1 := by omega
    have beyond : v.getLsbD (1 + (w - 1)) = false := BitVec.getLsbD_of_ge v _ (Nat.not_lt.mp hlast)
    simp [hj, hlast, beyond, Nat.zero_lt_of_lt hj, Nat.not_le.mpr hj]

/-- `c` places right that keep the sign, one at a time, are an arithmetic shift by `c`. -/
theorem repeatBit_sarBit_fst {w : Nat} (c : Nat) (v : BitVec w) (f : Bool) :
    (repeatBit sarBit c v f).1 = v.sshiftRight c := by
  induction c with
  | zero => exact BitVec.sshiftRight_zero.symm
  | succ c ih => rw [repeatBit_succ_last, sarBit_fst, ih, BitVec.sshiftRight_add]

/-- The last of `c` places right shifts out bit `c - 1`, which above the top is the sign. -/
theorem repeatBit_sarBit_snd {w c : Nat} (h0 : c ≠ 0) (hw : w ≠ 0) (v : BitVec w) (f : Bool) :
    (repeatBit sarBit c v f).2 = if c - 1 < w then v.getLsbD (c - 1) else v.msb := by
  obtain ⟨k, rfl⟩ := Nat.exists_eq_succ_of_ne_zero h0
  rw [repeatBit_succ_last, repeatBit_sarBit_fst, sarBit, BitVec.getLsbD_sshiftRight]
  simp [hw]

end Sys2Proof.Machine
end

section
/-! PROOFS. SHL, SHR and SAR (43_shift.md R170 to R180). `exec_of_countView` says of all 42 forms of the shifts and rotates
which shared operation of the model they are; `exec_of_eq_shift` says what a shift does at every count. The closed forms of
the repeated steps then give each shift its result and CF. -/

namespace Sys2Proof.Claims

open Sys2Proof.Machine

/-! ### The forms and their counts (R170, R171) -/

/-- The model masks a count with `1Fh`, which leaves its low five bits. -/
theorem fiveBits_eq_countImm : fiveBits = countImm := by
  funext x
  exact (Nat.and_two_pow_sub_one_eq_mod x.toNat 5).symm

/-- The model's operation of a form, for an instruction of `len` bytes. -/
def CountView.run (b : CountView) (len : Nat) (s : State) : Out :=
  match b.op with
  | .rol => rotate b.w rolBit b.dst b.c len s
  | .ror => rotate b.w rorBit b.dst b.c len s
  | .rcl => rotate b.w rclBit b.dst b.c len s
  | .rcr => rotate b.w rcrBit b.dst b.c len s
  | .shl => shiftLeft b.w b.dst b.c len s
  | .shr => shiftRight b.w b.dst b.c len s
  | .sar => shiftArith b.w b.dst b.c len s

/-- Each of the 42 forms is the operation of its view. -/
theorem exec_of_countView {i : Instr} {s : State} {b : CountView} (h : countView i s = some b) :
    exec i s = b.run i.length s := by
  unfold countView at h
  rw [fiveBits_eq_countImm] at h
  split at h <;> cases h <;> rfl

/-- The operand of a shift or rotate has the width of its form. -/
theorem mem_widths_of_countView {i : Instr} {s : State} {b : CountView} (h : countView i s = some b) :
    b.w ∈ b.dst.widths := by
  unfold countView at h
  split at h <;> cases h <;> simp only [eight_mem_widths_place8, bits_mem_widths_placeV]

/-- An operand has at least 8 bits. -/
theorem eight_le_of_mem_widths {x : Place} {w : Nat} (h : w ∈ x.widths) : 8 ≤ w := by
  have : w = 8 ∨ w = 16 ∨ w = 32 := by cases x <;> simp_all [Place.widths]
  omega

/-! ### What a shift does (R172, R176, R177, R180) -/

/-- The state after a shift by a count that is not zero, which left the word `r.1` and shifted out the bit `r.2` last. -/
def CountView.afterShift (b : CountView) (cfFree : Bool) (r : BitVec b.w × Bool) (len : Nat) (s : State) : State :=
  (b.dst.write r.1 s).finish (shiftFlags cfFree b.c (b.dst.read b.w s) r.1 r.2 s) 3 len

/-- A shift at every count: nothing but EIP at zero, else the repeated step, and faults where the checks fault. -/
theorem exec_of_eq_shift {i : Instr} {s : State} {b : CountView} {g : BitVec b.w → Bool → BitVec b.w × Bool}
    {cfFree : Bool} (h : exec i s = shift b.w g cfFree b.dst b.c i.length s) :
    (b.use.ready s → b.c = 0 → exec i s = .next { s with eip := s.eip + BitVec.ofNat 32 i.length }) ∧
    (b.use.ready s → b.c ≠ 0 → exec i s = .next
      (b.afterShift cfFree (repeatBit g b.c (b.dst.read b.w s) s.flags.cf) i.length s)) ∧ MemFaults i s b.use := by
  by_cases hc : b.c = 0
  · have guarded : exec i s = b.use.guard s (.next (s.finish s.flags 0 i.length)) := by
      rw [h, shift, if_pos hc, Use.guard, CountView.use, decide_eq_false (not_not_intro hc)]
    exact ⟨fun hready _ => guarded.trans (Use.guard_of_ready hready _), fun _ hne => absurd hc hne,
      memFaults_of_exec_eq_guard guarded⟩
  · have guarded : exec i s = b.use.guard s (.next
        (b.afterShift cfFree (repeatBit g b.c (b.dst.read b.w s) s.flags.cf) i.length s)) := by
      rw [h, shift, if_neg hc, Use.guard, CountView.use, decide_eq_true hc]
      rfl
    exact ⟨fun _ hzero => absurd hzero hc, fun hready _ => guarded.trans (Use.guard_of_ready hready _),
      memFaults_of_exec_eq_guard guarded⟩

section AfterShift

variable {i : Instr} {s : State} {b : CountView} {cfFree : Bool} {r : BitVec b.w × Bool} {len : Nat}

/-- A shift writes its operand and gives SF, ZF and PF of the result. -/
theorem CountView.afterShift_result (hwf : Memory.wf s.mem = true) (hw : b.w ∈ b.dst.widths) :
    WritesOnly b.dst r.1 s (b.afterShift cfFree r len s) ∧ HasSzp r.1 (b.afterShift cfFree r len s).flags :=
  ⟨(Place.writesOnly_write hwf b.dst hw r.1).finish _ _ _, hasSzp_szp _ _ _ _⟩

/-- OF after a shift by one says whether the sign changed. -/
theorem CountView.afterShift_of_one (hc : b.c = 1) :
    (b.afterShift cfFree r len s).flags.of = ((b.dst.read b.w s).msb ^^ r.1.msb) := if_pos hc

/-- OF after a shift by any other count is draw 1. -/
theorem CountView.afterShift_of_ne_one (hc : b.c ≠ 1) :
    (b.afterShift cfFree r len s).flags.of = s.undef 1 := if_neg hc

/-- CF where it is defined is the bit shifted out last. -/
theorem CountView.afterShift_cf_defined (h : cfFree = false) : (b.afterShift cfFree r len s).flags.cf = r.2 := by
  subst h; rfl

/-- CF where it is not defined is draw 0. -/
theorem CountView.afterShift_cf_free (h : cfFree = true) :
    (b.afterShift cfFree r len s).flags.cf = s.undef 0 := by
  subst h; rfl

/-- AF is draw 2. -/
theorem CountView.drawn_afterShift_af : Drawn (b.afterShift cfFree r len s).flags.af s
    (b.afterShift cfFree r len s) :=
  drawn_undef_write_finish s _ _ _ (by decide) _

/-- OF and AF after a shift by more than one are draws 1 and 2. -/
theorem CountView.drawnApart_afterShift_of_af (hc : b.c ≠ 1) :
    DrawnApart [(b.afterShift cfFree r len s).flags.of, (b.afterShift cfFree r len s).flags.af] s
      (b.afterShift cfFree r len s) := by
  rw [CountView.afterShift_of_ne_one hc]
  exact drawnApart_undef (ks := [1, 2]) (by decide) (by simp [CountView.afterShift])

/-- CF, OF and AF after a shift by more than one that leaves CF undefined are draws 0, 1 and 2. -/
theorem CountView.drawnApart_afterShift_cf_of_af (hc : b.c ≠ 1) (h : cfFree = true) :
    DrawnApart [(b.afterShift cfFree r len s).flags.cf, (b.afterShift cfFree r len s).flags.of,
      (b.afterShift cfFree r len s).flags.af] s (b.afterShift cfFree r len s) := by
  rw [CountView.afterShift_of_ne_one hc, CountView.afterShift_cf_free h]
  exact drawnApart_undef (ks := [0, 1, 2]) (by decide) (by simp [CountView.afterShift])

/-- EIP moves past the shift, and the parameters stay. -/
theorem CountView.advances_afterShift : Advances i s (b.afterShift cfFree r i.length s) :=
  advances_write_finish i s _ _ _ _

end AfterShift

/-! ### The three shifts (R173 to R175) -/

/-- What SHL and SHR have in common: the result has the value `n`, and the bit shifted out last, by a count below the
width, is `bit`. -/
theorem exec_logicalShift {i : Instr} {s : State} {b : CountView} {r : BitVec b.w × Bool}
    (hexec : exec i s = .next (b.afterShift (decide (b.w ≤ b.c)) r i.length s)) (hw : b.w ∈ b.dst.widths)
    (hwf : Memory.wf s.mem = true) {n : Nat} {bit : Bool} (hr : r.1.toNat = n) (hout : b.c < b.w → r.2 = bit) :
    ∃ t, exec i s = .next t ∧
      (∃ r : BitVec b.w, r.toNat = n ∧ WritesOnly b.dst r s t ∧ HasSzp r t.flags ∧
        (b.c = 1 → t.flags.of = ((b.dst.read b.w s).msb ^^ r.msb))) ∧
      (b.c < b.w → t.flags.cf = bit) ∧
      (b.c = 1 → Drawn t.flags.af s t) ∧
      (b.c ≠ 1 → b.c < b.w → DrawnApart [t.flags.of, t.flags.af] s t) ∧
      (b.w ≤ b.c → DrawnApart [t.flags.cf, t.flags.of, t.flags.af] s t) ∧
      Advances i s t := by
  have eight := eight_le_of_mem_widths hw
  obtain ⟨written, szp⟩ := CountView.afterShift_result hwf hw
  exact ⟨_, hexec, ⟨r.1, hr, written, szp, CountView.afterShift_of_one⟩,
    fun hlt => (CountView.afterShift_cf_defined (decide_eq_false (Nat.not_le.mpr hlt))).trans (hout hlt),
    fun _ => CountView.drawn_afterShift_af,
    fun hne _ => CountView.drawnApart_afterShift_of_af hne,
    fun hle => CountView.drawnApart_afterShift_cf_of_af (by omega) (decide_eq_true hle),
    CountView.advances_afterShift⟩

/-- Settles O35: SHL leaves `v <<< c`, whose value is `v * 2^c` modulo `2^w`, and shifts out bit `w - c` last. -/
theorem shlResult : Obligations.ShlResult := by
  intro i s b hview hop hwf
  have hrun : exec i s = shiftLeft b.w b.dst b.c i.length s := by rw [exec_of_countView hview, CountView.run, hop]
  obtain ⟨hzero, hnext, hfaults⟩ := exec_of_eq_shift hrun
  refine ⟨hzero, fun hready hc =>
    exec_logicalShift (hnext hready hc) (mem_widths_of_countView hview) hwf ?value fun hlt => ?carry, hfaults⟩
  case value => rw [repeatBit_shlBit_fst, BitVec.toNat_shiftLeft, Nat.shiftLeft_eq]
  case carry => exact repeatBit_shlBit_snd hc hlt.le _ _

/-- Settles O36: SHR leaves `v >>> c`, whose value is `v / 2^c`, and shifts out bit `c - 1` last. -/
theorem shrResult : Obligations.ShrResult := by
  intro i s b hview hop hwf
  have hrun : exec i s = shiftRight b.w b.dst b.c i.length s := by rw [exec_of_countView hview, CountView.run, hop]
  obtain ⟨hzero, hnext, hfaults⟩ := exec_of_eq_shift hrun
  refine ⟨hzero, fun hready hc =>
    exec_logicalShift (hnext hready hc) (mem_widths_of_countView hview) hwf ?value fun _ => ?carry, hfaults⟩
  case value => rw [repeatBit_shrBit_fst, BitVec.toNat_ushiftRight, Nat.shiftRight_eq_div_pow]
  case carry => exact repeatBit_shrBit_snd hc _ _

/-- Settles O37: SAR leaves the arithmetic shift by `c`, whose value is the floor of `v / 2^c`. It keeps the sign, so OF
is clear after a shift by one, and past the top it shifts out copies of the sign. -/
theorem sarResult : Obligations.SarResult := by
  intro i s b hview hop hwf
  have hrun : exec i s = shiftArith b.w b.dst b.c i.length s := by rw [exec_of_countView hview, CountView.run, hop]
  obtain ⟨hzero, hnext, hfaults⟩ := exec_of_eq_shift hrun
  have hw := mem_widths_of_countView hview
  have eight := eight_le_of_mem_widths hw
  refine ⟨hzero, fun hready hc => ?shifts, hfaults⟩
  have hexec := hnext hready hc
  obtain ⟨written, szp⟩ := CountView.afterShift_result hwf hw
  refine ⟨_, hexec, ⟨_, ?value, written, szp⟩, fun hlt => ?carry, fun hle => ?carryOfSign,
    fun hone => ⟨?overflow, CountView.drawn_afterShift_af⟩, CountView.drawnApart_afterShift_of_af,
    CountView.advances_afterShift⟩
  case value =>
    rw [repeatBit_sarBit_fst, BitVec.toInt_sshiftRight, Int.shiftRight_eq_div_pow, Nat.cast_pow, Nat.cast_ofNat]
  case carry => rw [CountView.afterShift_cf_defined rfl, repeatBit_sarBit_snd hc (by omega), if_pos (by omega)]
  case carryOfSign =>
    rw [CountView.afterShift_cf_defined rfl, repeatBit_sarBit_snd hc (by omega)]
    split
    case isTrue hlast => rw [BitVec.msb_eq_getLsbD_last, show b.c - 1 = b.w - 1 by omega]
    case isFalse => rfl
  case overflow => rw [CountView.afterShift_of_one hone, repeatBit_sarBit_fst, BitVec.msb_sshiftRight, Bool.xor_self]

end Sys2Proof.Claims
end

section
/-! PROOFS. The bits of a shifted pair of words, each from the one word or the other (44_double_shift.md R192, R193). -/

namespace Sys2Proof.Machine

/-- SHLD by `c`: the low `c` bits are the top `c` of `s`, the others are those of `d` moved up (R192). -/
theorem getLsbD_shldBits_fst {w c : Nat} (hc : c ≤ w) (d s : BitVec w) {j : Nat} (hj : j < w) :
    (shldBits d s c).1.getLsbD j = if j < c then s.getLsbD (w - c + j) else d.getLsbD (j - c) := by
  have shifted : (shldBits d s c).1.getLsbD j = (d ++ s).getLsbD (w + j - c) := by
    have inPair : w + j < w + w := Nat.add_lt_add_left hj w
    have filled : ¬ w + j < c := by omega
    simp only [shldBits, BitVec.getLsbD_extractLsb', BitVec.getLsbD_shiftLeft, hj, inPair, filled, decide_true,
      decide_false, Bool.not_false, Bool.true_and]
  rw [shifted, BitVec.getLsbD_append]
  by_cases hlow : j < c
  · rw [if_pos hlow, if_pos (by omega), Nat.sub_add_comm hc]
  · rw [if_neg hlow, if_neg (by omega), show w + j - c - w = j - c by omega]

/-- SHRD by `c`: the top `c` bits are the low `c` of `s`, the others are those of `d` moved down (R193). -/
theorem getLsbD_shrdBits_fst {w c : Nat} (d s : BitVec w) {j : Nat} (hj : j < w) :
    (shrdBits d s c).1.getLsbD j = if j < w - c then d.getLsbD (j + c) else s.getLsbD (j + c - w) := by
  have shifted : (shrdBits d s c).1.getLsbD j = (s ++ d).getLsbD (j + c) := by
    simp [shrdBits, hj, Nat.add_comm c j]
  rw [shifted, BitVec.getLsbD_append]
  by_cases hlow : j < w - c
  · rw [if_pos hlow, if_pos (Nat.add_lt_of_lt_sub hlow)]
  · rw [if_neg hlow, if_neg (by omega)]

end Sys2Proof.Machine
end

section
/-! PROOFS. SHLD and SHRD (44_double_shift.md R190 to R193). `exec_of_doubleView` says of all four forms that they are
the checks of the destination, then the effect of the range that the count is in: zero, below the width, or not. -/

namespace Sys2Proof.Claims

open Sys2Proof.Machine

/-! ### The shifted pair (R192, R193) -/

/-- The shift of a pair that the form makes. -/
def DoubleView.shiftBits (b : DoubleView) : BitVec b.w → BitVec b.w → Nat → BitVec b.w × Bool :=
  if b.left then shldBits else shrdBits

/-- The word that a count below the width leaves in the destination, and the bit shifted out last. -/
def DoubleView.shifted (b : DoubleView) (s : State) : BitVec b.w × Bool :=
  b.shiftBits (b.dst.read b.w s) b.src b.c

/-- Each bit of the word left is the source's or the destination's. -/
theorem DoubleView.getLsbD_shifted_fst {b : DoubleView} (hc : b.c < b.w) (s : State) {j : Nat} (hj : j < b.w) :
    (b.shifted s).1.getLsbD j =
      if b.left then
        (if j < b.c then b.src.getLsbD (b.w - b.c + j) else (b.dst.read b.w s).getLsbD (j - b.c))
      else
        (if j < b.w - b.c then (b.dst.read b.w s).getLsbD (j + b.c) else b.src.getLsbD (j + b.c - b.w)) := by
  rw [DoubleView.shifted, DoubleView.shiftBits]
  cases b.left with
  | true => exact getLsbD_shldBits_fst hc.le _ _ hj
  | false => exact getLsbD_shrdBits_fst _ _ hj

/-- The bit shifted out last is the destination's. -/
theorem DoubleView.shifted_snd (b : DoubleView) (s : State) :
    (b.shifted s).2 = (b.dst.read b.w s).getLsbD (if b.left then b.w - b.c else b.c - 1) := by
  rw [DoubleView.shifted, DoubleView.shiftBits]
  cases b.left <;> rfl

/-! ### What all four forms do (R190, R191) -/

/-- The state after a double shift that answers a next state, of `len` bytes, by any count. -/
def DoubleView.after (b : DoubleView) (len : Nat) (s : State) : State :=
  if b.c = 0 then s.finish s.flags 0 len
  else if b.w ≤ b.c then (b.dst.write (s.undefW b.w 0) s).finish (drawnFlags s) 7 len
  else (b.dst.write (b.shifted s).1 s).finish (doubleShiftFlags (b.shifted s).1 (b.shifted s).2 s) 2 len

/-- All four forms: the checks of the destination, which is written unless the count is zero, then the effect. -/
theorem exec_of_doubleView {i : Instr} {s : State} {b : DoubleView} (h : doubleView i s = some b) :
    exec i s = b.use.guard s (.next (b.after i.length s)) := by
  have shifts : exec i s = doubleShift b.w b.shiftBits b.dst b.src b.c i.length s := by
    unfold doubleView at h
    rw [fiveBits_eq_countImm] at h
    split at h <;> cases h <;> rfl
  rw [shifts, doubleShift, Use.guard, DoubleView.use, DoubleView.after]
  by_cases hc : b.c = 0
  · rw [if_pos hc, if_pos hc, decide_eq_false (not_not_intro hc)]
  · rw [if_neg hc, if_neg hc, decide_eq_true hc]
    split <;> rfl

/-- The destination of a double shift has the width of its form. -/
theorem mem_widths_of_doubleView {i : Instr} {s : State} {b : DoubleView} (h : doubleView i s = some b) :
    b.w ∈ b.dst.widths := by
  unfold doubleView at h
  split at h <;> cases h <;> exact bits_mem_widths_placeV _ _ _ _

/-- Settles O40: at count zero the end of the instruction alone; below the width the write of the shifted pair, with
`doubleShiftFlags`, whose OF and AF are draws 0 and 1; from the width on the write of draw 0, with `drawnFlags`, which
are draws 1 to 6. -/
theorem doubleShiftResult : Obligations.DoubleShiftResult := by
  intro i s b hview hwf
  have hexec := exec_of_doubleView hview
  have hw := mem_widths_of_doubleView hview
  have eight := eight_le_of_mem_widths hw
  refine ⟨fun hready hc => ?zero, fun hready hc hlt => ?defined, fun hready hle => ?drawn,
    memFaults_of_exec_eq_guard hexec⟩ <;> rw [Use.guard_of_ready hready, DoubleView.after] at hexec
  case zero => rwa [if_pos hc] at hexec
  case defined =>
    rw [if_neg hc, if_neg (Nat.not_le.mpr hlt)] at hexec
    have written := Place.writesOnly_write hwf b.dst hw (b.shifted s).1
    exact ⟨_, hexec,
      ⟨_, fun j hj => DoubleView.getLsbD_shifted_fst hlt s hj, written.finish _ _ _, hasSzp_szp _ _ _ _⟩,
      b.shifted_snd s, drawnApart_undef (ks := [0, 1]) (by decide) (by simp), advances_write_finish i s _ _ _ _⟩
  case drawn =>
    have hc : b.c ≠ 0 := by omega
    rw [if_neg hc, if_pos hle] at hexec
    have written := Place.writesOnly_write hwf b.dst hw (s.undefW b.w 0)
    exact ⟨_, hexec,
      ⟨_, drawnWordApart_undef (ks := [1, 2, 3, 4, 5, 6]) (by decide) (by simp), written.finish _ _ _⟩,
      advances_write_finish i s _ _ _ _⟩

end Sys2Proof.Claims
end

section
/-! PROOFS. The sixteen SETcc (46_setcc_and_referenced.md R220 to R222). `cond_eq_condTable` says that the model's
conditions, eight and their negations, are those of R99's table; `exec_of_setView` says of all sixteen instructions that
they are the check of the write, then the write of 1 or 0, with no read and no flag changed. -/

namespace Sys2Proof.Claims

open Sys2Proof.Machine

/-! ### The conditions (R222, 30_encoding.md R99) -/

/-- The even rows of the table are the model's eight conditions. -/
theorem condTable_two_mul {k : Nat} (hk : k < 8) (f : Flags) : condTable (2 * k) f = condEven k f := by
  interval_cases k <;> rfl

/-- The odd rows of the table are the negations of the model's eight conditions. -/
theorem condTable_two_mul_add_one {k : Nat} (hk : k < 8) (f : Flags) :
    condTable (2 * k + 1) f = !condEven k f := by
  have less : (f.sf == f.of) = !(f.sf ^^ f.of) := (Bool.not_not (f.sf == f.of)).symm
  match k, hk with
  | 0, _ | 1, _ | 2, _ | 4, _ | 5, _ => rfl
  | 3, _ => exact (Bool.not_or f.cf f.zf).symm
  | 6, _ => exact less
  | 7, _ => simp only [condTable, condEven, less, Bool.not_or]

/-- On the sixteen numbers of the table the model's condition is the table. -/
theorem cond_eq_condTable {cc : Nat} (hcc : cc < 16) (f : Flags) : Machine.cond cc f = condTable cc f := by
  have hk : cc / 2 < 8 := by omega
  unfold Machine.cond
  split
  · next hodd =>
    rw [← condTable_two_mul_add_one hk, ← hodd, Nat.div_add_mod]
  · next heven =>
    rw [← condTable_two_mul hk, Nat.mul_div_cancel' (by omega)]

/-! ### What all sixteen do (R221) -/

/-- SETcc writes its byte and reads nothing. -/
def setUse (x : Place) : Use := ⟨x, 8, false, true⟩

/-- The write alone decides whether the access of SETcc is admitted. -/
theorem setUse_ready {x : Place} {s : State} (h : x.writable 8 s = true) : (setUse x).ready s :=
  ⟨fun hrd => absurd hrd Bool.false_ne_true, fun _ => h⟩

/-- The numbers of the sixteen conditions are below 16. -/
theorem lt_of_setView {i : Instr} {s : State} {cc : Nat} {x : Place} (h : setView i s = some (cc, x)) : cc < 16 := by
  unfold setView at h
  split at h <;> cases h <;> decide

/-- The operand of SETcc is a byte. -/
theorem eight_mem_widths_of_setView {i : Instr} {s : State} {cc : Nat} {x : Place} (h : setView i s = some (cc, x)) :
    8 ∈ x.widths := by
  unfold setView at h
  split at h <;> cases h <;> exact eight_mem_widths_place8 _ _ _

/-- All sixteen: the check of the write, then 1 or 0 by the table written, with the flags as they were. -/
theorem exec_of_setView {i : Instr} {s : State} {cc : Nat} {x : Place} (h : setView i s = some (cc, x)) :
    exec i s = (setUse x).guard s
      (.next ((x.write (if condTable cc s.flags then 1#8 else 0#8) s).finish s.flags 0 i.length)) := by
  have sets : exec i s = setByte cc x i.length s := by
    unfold setView at h
    split at h <;> cases h <;> rfl
  rw [sets, setByte, cond_eq_condTable (lt_of_setView h)]
  rfl

/-- Settles O45: the check and the write of the byte. The check is of a write alone, so nothing asks that the operand can
be read. -/
theorem setResult : Obligations.SetResult := by
  intro i s cc x hview hwf
  have hexec := exec_of_setView hview
  refine ⟨fun hwritable => ?_, memFaults_of_exec_eq_guard hexec⟩
  rw [Use.guard_of_ready (setUse_ready hwritable)] at hexec
  have written := Place.writesOnly_write hwf x (eight_mem_widths_of_setView hview)
    (if condTable cc s.flags then 1#8 else 0#8)
  exact ⟨_, hexec, written.finish _ _ _, rfl, advances_write_finish i s _ _ _ _⟩

end Sys2Proof.Claims
end

section
/-! PROOFS. The marks before an opcode (30_encoding.md R82). Adding a mark is refused when one of its kind is there and
else puts it down; from that follow that their order does not matter, and which bytes the decoder has taken as marks. -/

namespace Sys2Proof

open Sys2Proof.Claims

/-! ### Bytes and kinds of marks -/

/-- The byte of a mark; of the two REP bytes, the second. -/
def MarkByte.byte : MarkByte → Byte
  | .opsize => 0x66
  | .addrsize => 0x67
  | .seg g => g.markByte
  | .lock => 0xF0
  | .repeat => 0xF3

/-- A byte is an admitted mark when it has a kind and is no REP byte. -/
theorem isMark_eq (b : Byte) : isMark b = (markOf b).any fun k => decide (k ≠ .repeat) := by
  revert b; decide

/-- A kind of mark other than REP has one byte. -/
theorem eq_byte_of_markOf {b : Byte} {k : MarkByte} (h : markOf b = some k) (hk : k ≠ .repeat) : b = k.byte := by
  have table : ∀ b : Byte, (markOf b).all (fun k => decide (k = .repeat ∨ b = k.byte)) = true := by decide
  simpa [h, hk] using table b

/-- An admitted mark has a kind that is not REP. -/
theorem exists_markOf_of_isMark {b : Byte} (h : isMark b = true) : ∃ k, k ≠ .repeat ∧ markOf b = some k := by
  rw [isMark_eq, Option.any_eq_true] at h
  obtain ⟨k, hk, hne⟩ := h
  exact ⟨k, of_decide_eq_true hne, hk⟩

/-- A byte with a kind that is not REP is an admitted mark. -/
theorem isMark_of_markOf {b : Byte} {k : MarkByte} (h : markOf b = some k) (hk : k ≠ .repeat) : isMark b = true := by
  rw [isMark_eq, h]; exact decide_eq_true hk

/-! ### Adding a mark -/

/-- Marks of one kind: at most one of them may stand before an opcode. -/
def MarkByte.like : MarkByte → MarkByte → Bool
  | .opsize, .opsize => true
  | .addrsize, .addrsize => true
  | .seg _, .seg _ => true
  | .lock, .lock => true
  | _, _ => false

/-- There is a mark of this kind. -/
def Marks.has (p : Marks) : MarkByte → Bool
  | .opsize => p.opsize
  | .addrsize => p.addrsize
  | .seg _ => p.seg.isSome
  | .lock => p.lock
  | .repeat => false

/-- The marks with one more put down. -/
def Marks.put (p : Marks) : MarkByte → Marks
  | .opsize => { p with opsize := true }
  | .addrsize => { p with addrsize := true }
  | .seg g => { p with seg := some g }
  | .lock => { p with lock := true }
  | .repeat => p

/-- Adding a mark: at most one of each kind. -/
theorem Marks.add_eq (p : Marks) {k : MarkByte} (hk : k ≠ .repeat) :
    p.add k = if p.has k then .error .secondMark else .ok (p.put k) := by
  match k, hk with
  | .repeat, hk => exact absurd rfl hk
  | .opsize, _ | .addrsize, _ | .seg _, _ | .lock, _ => rfl

/-- A mark that could be added is of a kind that was not there. -/
theorem Marks.add_eq_ok {p p' : Marks} {k : MarkByte} (h : p.add k = .ok p') :
    k ≠ .repeat ∧ p.has k = false ∧ p' = p.put k := by
  have hk : k ≠ .repeat := by rintro rfl; cases h
  rw [Marks.add_eq p hk] at h
  split at h
  · cases h
  · next hhas => exact ⟨hk, by simpa using hhas, (Except.ok.inj h).symm⟩

/-- A mark put down is there, and so is whatever was there before. -/
theorem Marks.has_put (p : Marks) (j k : MarkByte) : (p.put j).has k = (p.has k || j.like k) := by
  cases j <;> cases k <;> simp [Marks.put, Marks.has, MarkByte.like]

/-- Marks of different kinds may be put down in either order. -/
theorem Marks.put_comm (p : Marks) {j k : MarkByte} (h : j.like k = false) : (p.put j).put k = (p.put k).put j := by
  cases j <;> cases k <;> simp_all [Marks.put, MarkByte.like]

/-- Being of one kind is symmetric. -/
theorem MarkByte.like_comm (j k : MarkByte) : j.like k = k.like j := by
  cases j <;> cases k <;> rfl

/-- Two marks may be added in either order, and are refused in either order. -/
theorem Marks.add_comm (p : Marks) {j k : MarkByte} (hj : j ≠ .repeat) (hk : k ≠ .repeat) :
    (p.add j).bind (·.add k) = (p.add k).bind (·.add j) := by
  have twice : ∀ {j k : MarkByte}, j ≠ .repeat → k ≠ .repeat → (p.add j).bind (·.add k) =
      if p.has j || p.has k || j.like k then .error .secondMark else .ok ((p.put j).put k) := by
    intro j k hj hk
    rw [Marks.add_eq p hj]
    cases hhas : p.has j with
    | true => rfl
    | false => simp [Except.bind, Marks.add_eq _ hk, Marks.has_put]
  rw [twice hj hk, twice hk hj, MarkByte.like_comm k j, Bool.or_comm (p.has k)]
  split
  · rfl
  · next h => rw [Marks.put_comm p (by simp_all)]

/-! ### The marks at the head of the bytes -/

/-- A byte with a kind is added to the marks. -/
theorem takeMarks_cons {b : Byte} {k : MarkByte} (h : markOf b = some k) (bs : List Byte) (p : Marks) :
    takeMarks (b :: bs) p = (p.add k).bind (takeMarks bs) := by
  simp only [takeMarks, h]
  cases p.add k <;> rfl

/-- The marks at the head of the bytes may stand in any order (R82). -/
theorem takeMarks_perm {ps qs : List Byte} (h : ps.Perm qs) (hps : ∀ b ∈ ps, isMark b = true) (bs : List Byte)
    (p : Marks) : takeMarks (ps ++ bs) p = takeMarks (qs ++ bs) p := by
  induction h generalizing p with
  | nil => rfl
  | @cons x l l' _ ih =>
    obtain ⟨k, -, hk⟩ := exists_markOf_of_isMark (hps x (by simp))
    rw [List.cons_append, List.cons_append, takeMarks_cons hk, takeMarks_cons hk]
    exact congrArg _ (funext fun p => ih (fun b hb => hps b (by simp [hb])) p)
  | @swap x y l =>
    obtain ⟨j, hj, hjx⟩ := exists_markOf_of_isMark (hps x (by simp))
    obtain ⟨k, hk, hky⟩ := exists_markOf_of_isMark (hps y (by simp))
    have both : ∀ {b c : Byte} {j k : MarkByte}, markOf b = some j → markOf c = some k →
        takeMarks (b :: c :: l ++ bs) p = ((p.add j).bind (·.add k)).bind (takeMarks (l ++ bs)) := by
      intro b c j k hj hk
      rw [List.cons_append, takeMarks_cons hj]
      cases p.add j with
      | error e => rfl
      | ok p' => exact takeMarks_cons hk _ _
    rw [both hky hjx, both hjx hky, Marks.add_comm p hk hj]
  | @trans l₁ l₂ l₃ h₁ _ ih₁ ih₂ =>
    exact (ih₁ hps p).trans (ih₂ (fun b hb => hps b (h₁.mem_iff.mpr hb)) p)

/-- The encoder's marks are read back. -/
theorem takeMarks_bytes (p : Marks) (bs : List Byte) : takeMarks (p.bytes ++ bs) .empty = takeMarks bs p := by
  obtain ⟨o, a, g, l⟩ := p
  have seg : ∀ q : Marks, q.seg = none →
      takeMarks ((match g with | none => [] | some g => [g.markByte]) ++ bs) q = takeMarks bs { q with seg := g } := by
    rintro ⟨o, a, _, l⟩ rfl
    cases g with
    | none => rfl
    | some g => exact takeMarks_cons (markOf_markByte g) bs _
  cases l <;> cases o <;> cases a <;> exact seg _ rfl

/-- The bytes of the marks, by field. -/
theorem Marks.bytes_mk (o a : Bool) (g : Option Seg) (l : Bool) : Marks.bytes ⟨o, a, g, l⟩ =
    (if l then [0xF0] else []) ++ (if o then [0x66] else []) ++ (if a then [0x67] else []) ++
      (g.map Seg.markByte).toList := by
  cases g <;> rfl

/-- One more mark is one more byte, up to the order. -/
theorem Marks.perm_bytes_put {p : Marks} {k : MarkByte} (hk : k ≠ .repeat) (h : p.has k = false) :
    (k.byte :: p.bytes).Perm (p.put k).bytes := by
  obtain ⟨o, a, g, l⟩ := p
  match k, hk, h with
  | .repeat, hk, _ => exact absurd rfl hk
  | .lock, _, h =>
    obtain rfl : l = false := h
    simp [Marks.put, Marks.bytes_mk, MarkByte.byte]
  | .opsize, _, h =>
    obtain rfl : o = false := h
    simpa [Marks.put, Marks.bytes_mk, MarkByte.byte] using List.perm_middle.symm
  | .addrsize, _, h =>
    obtain rfl : a = false := h
    simpa [Marks.put, Marks.bytes_mk, MarkByte.byte] using (List.perm_middle (l₁ := _ ++ _)).symm
  | .seg s, _, h =>
    obtain rfl : g = none := by simpa [Marks.has] using h
    simpa [Marks.put, Marks.bytes_mk, MarkByte.byte] using
      (List.perm_append_singleton s.markByte (_ ++ (_ ++ _))).symm

/-- The bytes that were taken as marks: they stand at the head, are admitted marks, and with those that were there before
are the encoder's bytes of the marks answered, up to the order. -/
theorem takeMarks_eq_ok {bs r : List Byte} {p p' : Marks} (h : takeMarks bs p = .ok (p', r)) :
    ∃ ms, bs = ms ++ r ∧ (∀ b ∈ ms, isMark b = true) ∧ (ms ++ p.bytes).Perm p'.bytes := by
  induction bs generalizing p with
  | nil => cases h
  | cons b bs ih =>
    cases hkind : markOf b with
    | none =>
      rw [takeMarks_of_not_mark hkind] at h
      obtain ⟨rfl, rfl⟩ := Prod.mk.inj (Except.ok.inj h)
      exact ⟨[], rfl, by simp, .refl _⟩
    | some k =>
      rw [takeMarks_cons hkind] at h
      cases hadd : p.add k with
      | error e => rw [hadd] at h; cases h
      | ok q =>
        rw [hadd] at h
        obtain ⟨hk, hhas, rfl⟩ := Marks.add_eq_ok hadd
        obtain ⟨ms, rfl, hms, hperm⟩ := ih h
        obtain rfl := eq_byte_of_markOf hkind hk
        refine ⟨k.byte :: ms, rfl, by simpa [isMark_of_markOf hkind hk] using hms, ?_⟩
        exact (List.perm_middle.symm.trans ((Marks.perm_bytes_put hk hhas).append_left ms)).trans hperm

/-- Settles O5: only the marks see the head of the bytes, and two of them may change places. -/
theorem markOrderIrrelevant : Obligations.MarkOrderIrrelevant := by
  intro z ps qs bs hperm hps
  rw [decode, decode, takeParts, takeParts, takeMarks_perm hperm hps]

end Sys2Proof
end

section
/-! PROOFS. ModR/M, SIB, displacement and immediate (30_encoding.md R85 to R91): the decoder reads back what the encoder
writes (`take*_bytes`), and what it reads was written so (`take*_eq_ok`). -/

namespace Sys2Proof

/-! ### Words -/

/-- The byte that was read. -/
theorem take8_eq_ok {bs r : List Byte} {x : Byte} (h : take8 bs = .ok (x, r)) : bs = x :: r := by
  match bs, h with
  | _ :: _, rfl => rfl

/-- The low byte of a word with a byte at its low end. -/
theorem extractLsb'_append_byte {n : Nat} (hi : BitVec n) (lo : Byte) : (hi ++ lo).extractLsb' 0 8 = lo :=
  BitVec.extractLsb'_append_eq_right

/-- The other bytes of a word with a byte at its low end. -/
theorem extractLsb'_add_append_byte {n : Nat} (hi : BitVec n) (lo : Byte) (k : Nat) :
    (hi ++ lo).extractLsb' (k + 8) 8 = hi.extractLsb' k 8 := by
  rw [BitVec.extractLsb'_append_eq_of_le (Nat.le_add_left 8 k), Nat.add_sub_cancel]

/-- The bytes of a word made of two. -/
theorem bytes16_append (b1 b0 : Byte) : bytes16 (b1 ++ b0) = [b0, b1] :=
  congrArg₂ List.cons (extractLsb'_append_byte b1 b0)
    (congrArg (fun b => [b]) ((extractLsb'_add_append_byte b1 b0 0).trans BitVec.extractLsb'_eq_self))

/-- The bytes of a doubleword made of four. -/
theorem bytes32_append (b3 b2 b1 b0 : Byte) : bytes32 (b3 ++ b2 ++ b1 ++ b0) = [b0, b1, b2, b3] := by
  have byte1 : (b3 ++ b2 ++ b1 ++ b0).extractLsb' 8 8 = b1 :=
    (extractLsb'_add_append_byte _ b0 0).trans (extractLsb'_append_byte _ b1)
  have byte2 : (b3 ++ b2 ++ b1 ++ b0).extractLsb' 16 8 = b2 :=
    (extractLsb'_add_append_byte _ b0 8).trans
      ((extractLsb'_add_append_byte _ b1 0).trans (extractLsb'_append_byte _ b2))
  have byte3 : (b3 ++ b2 ++ b1 ++ b0).extractLsb' 24 8 = b3 :=
    (extractLsb'_add_append_byte _ b0 16).trans ((extractLsb'_add_append_byte _ b1 8).trans
      ((extractLsb'_add_append_byte _ b2 0).trans BitVec.extractLsb'_eq_self))
  exact congrArg₂ List.cons (extractLsb'_append_byte _ b0)
    (congrArg₂ List.cons byte1 (congrArg₂ List.cons byte2 (congrArg (fun b => [b]) byte3)))

/-- The two bytes that were read are those of the word. -/
theorem take16_eq_ok {bs r : List Byte} {x : BitVec 16} (h : take16 bs = .ok (x, r)) : bs = bytes16 x ++ r := by
  match bs, h with
  | b0 :: b1 :: _, rfl => exact congrArg (· ++ r) (bytes16_append b1 b0).symm

/-- The four bytes that were read are those of the doubleword. -/
theorem take32_eq_ok {bs r : List Byte} {x : BitVec 32} (h : take32 bs = .ok (x, r)) : bs = bytes32 x ++ r := by
  match bs, h with
  | b0 :: b1 :: b2 :: b3 :: _, rfl => exact congrArg (· ++ r) (bytes32_append b3 b2 b1 b0).symm

/-- A word read back and renamed. -/
theorem map_take16_bytes16 {β : Type} (f : BitVec 16 → β) (x : BitVec 16) (r : List Byte) :
    (take16 (bytes16 x ++ r)).map (fun y => (f y.1, y.2)) = .ok (f x, r) := by
  rw [take16_bytes16]; rfl

/-- A doubleword read back and renamed. -/
theorem map_take32_bytes32 {β : Type} (f : BitVec 32 → β) (x : BitVec 32) (r : List Byte) :
    (take32 (bytes32 x ++ r)).map (fun y => (f y.1, y.2)) = .ok (f x, r) := by
  rw [take32_bytes32]; rfl

/-- A read followed by a renaming of what was read: what it answered, and the read that gave it. -/
theorem map_eq_ok {α β : Type} {f : α → β} {e : Except DecodeError (α × List Byte)} {y : β} {r : List Byte}
    (h : e.map (fun x => (f x.1, x.2)) = .ok (y, r)) : ∃ x, e = .ok (x, r) ∧ y = f x := by
  match e, h with
  | .ok (x, _), rfl => exact ⟨x, rfl, rfl⟩

/-! ### Displacements (R88, R90) -/

theorem takeDisp32_bytes (d : Disp 32) (r : List Byte) : takeDisp32 d.mod (disp32Bytes d ++ r) = .ok (d, r) := by
  cases d with
  | none | d8 d => rfl
  | full d => exact map_take32_bytes32 Disp.full d r

theorem takeDisp16_bytes (d : Disp 16) (r : List Byte) : takeDisp16 d.mod (disp16Bytes d ++ r) = .ok (d, r) := by
  cases d with
  | none | d8 d => rfl
  | full d => exact map_take16_bytes16 Disp.full d r

/-- The `mod` fields that announce a memory operand. -/
theorem mod_cases {md : BitVec 2} (h : md ≠ 3) : md = 0 ∨ md = 1 ∨ md = 2 := by
  revert md; decide

theorem takeDisp32_eq_ok {md : BitVec 2} (hmd : md ≠ 3) {bs r : List Byte} {d : Disp 32}
    (h : takeDisp32 md bs = .ok (d, r)) : d.mod = md ∧ bs = disp32Bytes d ++ r := by
  obtain rfl | rfl | rfl := mod_cases hmd
  · cases h; exact ⟨rfl, rfl⟩
  · obtain ⟨x, hx, rfl⟩ := map_eq_ok (f := Disp.d8) h
    exact ⟨rfl, take8_eq_ok hx⟩
  · obtain ⟨x, hx, rfl⟩ := map_eq_ok (f := Disp.full) h
    exact ⟨rfl, take32_eq_ok hx⟩

theorem takeDisp16_eq_ok {md : BitVec 2} (hmd : md ≠ 3) {bs r : List Byte} {d : Disp 16}
    (h : takeDisp16 md bs = .ok (d, r)) : d.mod = md ∧ bs = disp16Bytes d ++ r := by
  obtain rfl | rfl | rfl := mod_cases hmd
  · cases h; exact ⟨rfl, rfl⟩
  · obtain ⟨x, hx, rfl⟩ := map_eq_ok (f := Disp.d8) h
    exact ⟨rfl, take8_eq_ok hx⟩
  · obtain ⟨x, hx, rfl⟩ := map_eq_ok (f := Disp.full) h
    exact ⟨rfl, take16_eq_ok hx⟩

/-! ### Which memory operands can be spelt (R88 to R90) -/

/-- Base and displacement go together: a full displacement without a base, some displacement beside EBP. -/
def baseFits (base : Option Reg) (disp : Disp 32) : Prop :=
  (base = none → ∃ d, disp = .full d) ∧ (base = some .ebp → disp.mod ≠ 0)

/-- The SIB byte is there where it must be: without one there is no index and the base is not ESP; ESP is no index. -/
def indexFits (sib : Bool) (base : Option Reg) (index : Option (Reg × Scale)) : Prop :=
  (sib = false → index = none ∧ base ≠ some .esp) ∧ ∀ r k, index = some (r, k) → r ≠ .esp

/-- A memory operand in 32-bit addressing can be spelt. -/
theorem MemOp.wf_a32_iff {sib : Bool} {base : Option Reg} {index : Option (Reg × Scale)} {disp : Disp 32} :
    (MemOp.a32 sib base index disp).wf = true ↔ indexFits sib base index ∧ baseFits base disp := by
  simp only [MemOp.wf, Bool.and_eq_true]
  refine and_congr ?_ ?_
  · rcases index with _ | ⟨x, k⟩ <;> cases sib <;> simp [indexFits]
  · cases base with
    | none => cases disp <;> simp [baseFits, Disp.isFull]
    | some b => cases b <;> cases disp <;> simp [baseFits, Disp.isNone, Disp.mod]

/-- Base, index and displacement of 16-bit addressing go together: a full displacement without base and index, some
displacement beside BP alone. -/
def pairFits (base : Option Base16) (index : Option Index16) (disp : Disp 16) : Prop :=
  (base = none → index = none → ∃ d, disp = .full d) ∧ (base = some .bp → index = none → disp.mod ≠ 0)

/-- A memory operand in 16-bit addressing can be spelt. -/
theorem MemOp.wf_a16_iff {base : Option Base16} {index : Option Index16} {disp : Disp 16} :
    (MemOp.a16 base index disp).wf = true ↔ pairFits base index disp := by
  rcases base with _ | _ | _ <;> cases index <;> cases disp <;>
    simp [MemOp.wf, pairFits, Disp.isFull, Disp.isNone, Disp.mod]

/-! ### Memory operands -/

/-- The `mod` field of a 32-bit memory operand. -/
def mod32 (base : Option Reg) (disp : Disp 32) : BitVec 2 := if base = none then 0 else disp.mod

/-- The `mod` field of a 16-bit memory operand. -/
def mod16 (base : Option Base16) (index : Option Index16) (disp : Disp 16) : BitVec 2 :=
  if base = none ∧ index = none then 0 else disp.mod

theorem mod_ne_three {n : Nat} (d : Disp n) : d.mod ≠ 3 := by cases d <;> simp [Disp.mod]

theorem mod32_ne_three (base : Option Reg) (disp : Disp 32) : mod32 base disp ≠ 3 := by
  unfold mod32; split
  · decide
  · exact mod_ne_three disp

theorem mod16_ne_three (base : Option Base16) (index : Option Index16) (disp : Disp 16) :
    mod16 base index disp ≠ 3 := by
  unfold mod16; split
  · decide
  · exact mod_ne_three disp

theorem takeBase32_bytes {base : Option Reg} {disp : Disp 32} (h : baseFits base disp) (sib : Bool)
    (index : Option (Reg × Scale)) (r : List Byte) :
    takeBase32 sib index (mod32 base disp) (baseBits base) (disp32Bytes disp ++ r) =
      .ok (.a32 sib base index disp, r) := by
  obtain ⟨hnone, hebp⟩ := h
  cases base with
  | none =>
    obtain ⟨d, rfl⟩ := hnone rfl
    exact map_take32_bytes32 (fun d => MemOp.a32 sib none index (.full d)) d r
  | some b =>
    have hno : ¬ (disp.mod = 0 ∧ b.toBits = 5) := by
      rintro ⟨h0, h5⟩
      exact hebp (congrArg some (by rw [← Reg.ofBits_toBits b, h5]; rfl)) h0
    have hmod : mod32 (some b) disp = disp.mod := rfl
    rw [takeBase32, baseBits, hmod, if_neg hno, takeDisp32_bytes, Reg.ofBits_toBits]; rfl

theorem takeBase32_eq_ok {sib : Bool} {index : Option (Reg × Scale)} {md : BitVec 2} (hmd : md ≠ 3) {n : BitVec 3}
    {bs r : List Byte} {m : MemOp} (h : takeBase32 sib index md n bs = .ok (m, r)) :
    ∃ base disp, m = .a32 sib base index disp ∧ baseFits base disp ∧ md = mod32 base disp ∧ n = baseBits base ∧
      bs = disp32Bytes disp ++ r := by
  rw [takeBase32] at h
  split at h
  · next h05 =>
    obtain ⟨x, hx, rfl⟩ := map_eq_ok (f := fun d => MemOp.a32 sib none index (.full d)) h
    exact ⟨none, .full x, rfl, ⟨fun _ => ⟨x, rfl⟩, nofun⟩, h05.1, h05.2, take32_eq_ok hx⟩
  · next h05 =>
    obtain ⟨d, hd, rfl⟩ := map_eq_ok (f := fun d => MemOp.a32 sib (some (Reg.ofBits n)) index d) h
    obtain ⟨hmod, hbs⟩ := takeDisp32_eq_ok hmd hd
    refine ⟨some (Reg.ofBits n), d, rfl, ⟨nofun, fun hebp h0 => h05 ⟨hmod ▸ h0, ?_⟩⟩, hmod.symm,
      (Reg.toBits_ofBits n).symm, hbs⟩
    rw [← Reg.toBits_ofBits n, Option.some.inj hebp]; rfl

/-- A byte is made of its three fields. -/
theorem modrmByte_fields (b : Byte) :
    modrmByte (b.extractLsb' 6 2) (b.extractLsb' 3 3) (b.extractLsb' 0 3) = b := by
  revert b; decide

/-- The index that the SIB byte of an index and a base names. -/
theorem sibIndex_sibByte {sib : Bool} {base : Option Reg} {index : Option (Reg × Scale)}
    (h : indexFits sib base index) :
    sibIndex ((sibByte index base).extractLsb' 6 2) ((sibByte index base).extractLsb' 3 3) = .ok index := by
  match index with
  | none => simp [sibByte, sibIndex]
  | some (x, k) =>
    have hx : x.toBits ≠ 4 := fun h4 => h.2 x k rfl (by rw [← Reg.ofBits_toBits x, h4]; rfl)
    simp only [sibByte, sibIndex, modrmByte_mod, modrmByte_reg, if_neg hx, Reg.ofBits_toBits, Scale.ofBits_toBits]

theorem sibByte_base (index : Option (Reg × Scale)) (base : Option Reg) :
    (sibByte index base).extractLsb' 0 3 = baseBits base := by
  cases index <;> simp [sibByte]

/-- The SIB byte that an index was read from, whatever its base. -/
theorem sibByte_of_sibIndex {b : Byte} {index : Option (Reg × Scale)} {base : Option Reg}
    (h : sibIndex (b.extractLsb' 6 2) (b.extractLsb' 3 3) = .ok index) (hb : b.extractLsb' 0 3 = baseBits base) :
    sibByte index base = b ∧ ∀ x k, index = some (x, k) → x ≠ .esp := by
  rw [sibIndex] at h
  split at h
  · next h4 =>
    split at h
    · next h0 =>
      obtain rfl := Except.ok.inj h
      exact ⟨by rw [sibByte, ← h4, ← h0, ← hb, modrmByte_fields], nofun⟩
    · cases h
  · next h4 =>
    obtain rfl := Except.ok.inj h
    refine ⟨by simp only [sibByte, Reg.toBits_ofBits, Scale.toBits_ofBits, ← hb, modrmByte_fields], ?_⟩
    rintro x k hxk rfl
    obtain ⟨hx, -⟩ := Prod.mk.inj (Option.some.inj hxk)
    exact h4 (by rw [← Reg.toBits_ofBits (b.extractLsb' 3 3), hx]; rfl)

/-- The `rm` field of a 32-bit memory operand, 100 for an SIB byte, and the bytes after the ModR/M byte. -/
def mem32Tail (sib : Bool) (base : Option Reg) (index : Option (Reg × Scale)) (disp : Disp 32) :
    BitVec 3 × List Byte :=
  if sib then (4, sibByte index base :: disp32Bytes disp) else (baseBits base, disp32Bytes disp)

/-- With `rm` = 100 an SIB byte follows. -/
theorem takeMem32_sib {n : BitVec 3} (h4 : n = 4) (md : BitVec 2) (b : Byte) (bs : List Byte) :
    takeMem32 md n (b :: bs) = (sibIndex (b.extractLsb' 6 2) (b.extractLsb' 3 3)).bind fun index =>
      takeBase32 true index md (b.extractLsb' 0 3) bs := by
  simp only [takeMem32, if_pos h4]
  cases sibIndex (b.extractLsb' 6 2) (b.extractLsb' 3 3) <;> rfl

/-- With any other `rm` none does. -/
theorem takeMem32_base {n : BitVec 3} (h4 : n ≠ 4) (md : BitVec 2) (bs : List Byte) :
    takeMem32 md n bs = takeBase32 false none md n bs := by
  unfold takeMem32; exact if_neg h4

theorem takeMem32_bytes {sib : Bool} {base : Option Reg} {index : Option (Reg × Scale)} {disp : Disp 32}
    (h : (MemOp.a32 sib base index disp).wf = true) (r : List Byte) :
    takeMem32 (mod32 base disp) (mem32Tail sib base index disp).1 ((mem32Tail sib base index disp).2 ++ r) =
      .ok (.a32 sib base index disp, r) := by
  obtain ⟨hindex, hbase⟩ := MemOp.wf_a32_iff.mp h
  cases sib with
  | true =>
    have hbytes : (mem32Tail true base index disp).2 ++ r = sibByte index base :: (disp32Bytes disp ++ r) := rfl
    rw [hbytes, takeMem32_sib (n := (mem32Tail true base index disp).1) rfl, sibIndex_sibByte hindex, sibByte_base]
    exact takeBase32_bytes hbase true index r
  | false =>
    obtain ⟨rfl, hesp⟩ := hindex.1 rfl
    have h4 : baseBits base ≠ 4 := by
      intro h4
      cases base with
      | none => cases h4
      | some b => exact hesp (congrArg some (by rw [← Reg.ofBits_toBits b]; exact congrArg Reg.ofBits h4))
    exact (takeMem32_base h4 _ _).trans (takeBase32_bytes hbase false none r)

theorem takeMem32_eq_ok {md : BitVec 2} (hmd : md ≠ 3) {n : BitVec 3} {bs r : List Byte} {m : MemOp}
    (h : takeMem32 md n bs = .ok (m, r)) :
    ∃ sib base index disp, m = .a32 sib base index disp ∧ m.wf = true ∧ md = mod32 base disp ∧
      n = (mem32Tail sib base index disp).1 ∧ bs = (mem32Tail sib base index disp).2 ++ r := by
  by_cases h4 : n = 4
  · match bs with
    | [] => rw [takeMem32, if_pos h4] at h; cases h
    | b :: bs =>
      rw [takeMem32_sib h4] at h
      cases hindex : sibIndex (b.extractLsb' 6 2) (b.extractLsb' 3 3) with
      | error e => rw [hindex] at h; cases h
      | ok index =>
        rw [hindex] at h
        obtain ⟨base, disp, rfl, hfits, hmod, hn, rfl⟩ := takeBase32_eq_ok hmd h
        obtain ⟨rfl, hesp⟩ := sibByte_of_sibIndex hindex hn
        exact ⟨true, base, index, disp, rfl, MemOp.wf_a32_iff.mpr ⟨⟨nofun, hesp⟩, hfits⟩, hmod, h4, rfl⟩
  · rw [takeMem32_base h4] at h
    obtain ⟨base, disp, rfl, hfits, hmod, hn, hbs⟩ := takeBase32_eq_ok hmd h
    have hesp : base ≠ some .esp := by rintro rfl; exact h4 hn
    exact ⟨false, base, none, disp, rfl, MemOp.wf_a32_iff.mpr ⟨⟨fun _ => ⟨rfl, hesp⟩, nofun⟩, hfits⟩, hmod, hn, hbs⟩

/-- Base and index are given back from their `rm` field, but for the absence of both. -/
theorem pair16_pair16Bits {base : Option Base16} {index : Option Index16} (h : ¬ (base = none ∧ index = none)) :
    pair16 (pair16Bits base index) = (base, index) := by
  rcases base with _ | _ | _ <;> rcases index with _ | _ | _ <;> simp_all [pair16, pair16Bits]

theorem pair16_ne_none (n : BitVec 3) : ¬ ((pair16 n).1 = none ∧ (pair16 n).2 = none) := by
  revert n; decide

theorem pair16Bits_pair16 (n : BitVec 3) : pair16Bits (pair16 n).1 (pair16 n).2 = n := by
  revert n; decide

theorem takeMem16_bytes {base : Option Base16} {index : Option Index16} {disp : Disp 16}
    (h : (MemOp.a16 base index disp).wf = true) (r : List Byte) :
    takeMem16 (mod16 base index disp) (pair16Bits base index) (disp16Bytes disp ++ r) =
      .ok (.a16 base index disp, r) := by
  obtain ⟨hnone, hbp⟩ := MemOp.wf_a16_iff.mp h
  by_cases hboth : base = none ∧ index = none
  · obtain ⟨rfl, rfl⟩ := hboth
    obtain ⟨d, rfl⟩ := hnone rfl rfl
    exact map_take16_bytes16 (fun d => MemOp.a16 none none (.full d)) d r
  · have hno : ¬ (disp.mod = 0 ∧ pair16Bits base index = 6) := by
      rintro ⟨h0, h6⟩
      have hpair := pair16_pair16Bits hboth
      rw [h6] at hpair
      obtain ⟨hb, hi⟩ := Prod.mk.inj hpair
      exact hbp hb.symm hi.symm h0
    rw [mod16, if_neg hboth, takeMem16, if_neg hno, takeDisp16_bytes, pair16_pair16Bits hboth]
    rfl

theorem takeMem16_eq_ok {md : BitVec 2} (hmd : md ≠ 3) {n : BitVec 3} {bs r : List Byte} {m : MemOp}
    (h : takeMem16 md n bs = .ok (m, r)) :
    ∃ base index disp, m = .a16 base index disp ∧ m.wf = true ∧ md = mod16 base index disp ∧
      n = pair16Bits base index ∧ bs = disp16Bytes disp ++ r := by
  rw [takeMem16] at h
  split at h
  · next h06 =>
    obtain ⟨x, hx, rfl⟩ := map_eq_ok (f := fun d => MemOp.a16 none none (.full d)) h
    exact ⟨none, none, .full x, rfl, rfl, h06.1, h06.2, take16_eq_ok hx⟩
  · next h06 =>
    obtain ⟨d, hd, rfl⟩ := map_eq_ok (f := fun d => MemOp.a16 (pair16 n).1 (pair16 n).2 d) h
    obtain ⟨rfl, hbs⟩ := takeDisp16_eq_ok hmd hd
    have hboth : ¬ ((pair16 n).1 = none ∧ (pair16 n).2 = none) := pair16_ne_none n
    refine ⟨_, _, d, rfl, MemOp.wf_a16_iff.mpr ⟨fun hb hi => absurd ⟨hb, hi⟩ hboth, fun hb hi h0 => h06 ⟨h0, ?_⟩⟩,
      (if_neg hboth).symm, (pair16Bits_pair16 n).symm, hbs⟩
    rw [← pair16Bits_pair16 n, hb, hi]; rfl

/-! ### ModR/M and immediate -/

/-- The ModR/M byte of a memory operand and what follows it. -/
theorem modrmBytes_a32 (reg : BitVec 3) (sib : Bool) (base : Option Reg) (index : Option (Reg × Scale))
    (disp : Disp 32) : modrmBytes reg (.mem (.a32 sib base index disp)) =
      modrmByte (mod32 base disp) reg (mem32Tail sib base index disp).1 :: (mem32Tail sib base index disp).2 := by
  cases sib <;> rfl

theorem modrmBytes_a16 (reg : BitVec 3) (base : Option Base16) (index : Option Index16) (disp : Disp 16) :
    modrmBytes reg (.mem (.a16 base index disp)) =
      modrmByte (mod16 base index disp) reg (pair16Bits base index) :: disp16Bytes disp := rfl

/-- An R/M operand can be spelt in the address size. -/
def rmFits (asz : OpSize) (rm : RM (BitVec 3)) : Prop := ∀ m, rm = .mem m → m.wf = true ∧ m.addrsize = asz

/-- A memory operand in either address size. -/
def takeMem (asz : OpSize) (md : BitVec 2) (n : BitVec 3) (bs : List Byte) : Except DecodeError (MemOp × List Byte) :=
  match asz with
  | .w32 => takeMem32 md n bs
  | .w16 => takeMem16 md n bs

/-- A ModR/M byte whose `mod` is not 11 begins a memory operand. -/
theorem takeModrm_mem (asz : OpSize) {md : BitVec 2} (hmd : md ≠ 3) (reg n : BitVec 3) (bs : List Byte) :
    takeModrm asz (modrmByte md reg n :: bs) =
      (takeMem asz md n bs).map fun x => ((reg, .mem x.1), x.2) := by
  cases asz <;> simp only [takeModrm, takeMem, modrmByte_mod, modrmByte_reg, modrmByte_rm, if_neg hmd]

theorem takeModrm_bytes {asz : OpSize} {rm : RM (BitVec 3)} (h : rmFits asz rm) (reg : BitVec 3) (r : List Byte) :
    takeModrm asz (modrmBytes reg rm ++ r) = .ok ((reg, rm), r) := by
  match rm with
  | .reg n => simp [modrmBytes, takeModrm]
  | .mem (.a32 sib base index disp) =>
    obtain ⟨hwf, rfl⟩ := h _ rfl
    rw [modrmBytes_a32, List.cons_append, takeModrm_mem _ (mod32_ne_three base disp)]
    dsimp only [MemOp.addrsize, takeMem]
    rw [takeMem32_bytes hwf]; rfl
  | .mem (.a16 base index disp) =>
    obtain ⟨hwf, rfl⟩ := h _ rfl
    rw [modrmBytes_a16, List.cons_append, takeModrm_mem _ (mod16_ne_three base index disp)]
    dsimp only [MemOp.addrsize, takeMem]
    rw [takeMem16_bytes hwf]; rfl

theorem takeModrm_eq_ok {asz : OpSize} {bs r : List Byte} {reg : BitVec 3} {rm : RM (BitVec 3)}
    (h : takeModrm asz bs = .ok ((reg, rm), r)) : bs = modrmBytes reg rm ++ r ∧ rmFits asz rm := by
  match bs, h with
  | b :: bs, h =>
    rw [← modrmByte_fields b] at h ⊢
    by_cases hmd : b.extractLsb' 6 2 = 3
    · simp only [takeModrm, hmd, modrmByte_mod, modrmByte_reg, modrmByte_rm, if_true] at h
      cases h
      exact ⟨by rw [hmd]; rfl, nofun⟩
    · rw [takeModrm_mem _ hmd] at h
      obtain ⟨m, hm, heq⟩ := map_eq_ok (f := fun m => (b.extractLsb' 3 3, RM.mem m)) h
      obtain ⟨hreg, rfl⟩ := Prod.mk.inj heq
      cases asz with
      | w32 =>
        obtain ⟨sib, base, index, disp, rfl, hwf, hmod, hn, rfl⟩ := takeMem32_eq_ok hmd hm
        refine ⟨by rw [modrmBytes_a32, hreg, hmod, hn]; rfl, ?_⟩
        rintro _ ⟨⟩; exact ⟨hwf, rfl⟩
      | w16 =>
        obtain ⟨base, index, disp, rfl, hwf, hmod, hn, rfl⟩ := takeMem16_eq_ok hmd hm
        refine ⟨by rw [modrmBytes_a16, hreg, hmod, hn]; rfl, ?_⟩
        rintro _ ⟨⟩; exact ⟨hwf, rfl⟩

theorem takeImmV_bytes (x : ImmV) (r : List Byte) : takeImmV x.size (x.bytes ++ r) = .ok (x, r) := by
  cases x with
  | i16 x => exact map_take16_bytes16 ImmV.i16 x r
  | i32 x => exact map_take32_bytes32 ImmV.i32 x r

theorem takeImmV_eq_ok {v : OpSize} {bs r : List Byte} {x : ImmV} (h : takeImmV v bs = .ok (x, r)) :
    bs = x.bytes ++ r ∧ x.size = v := by
  cases v with
  | w16 =>
    obtain ⟨x, hx, rfl⟩ := map_eq_ok (f := ImmV.i16) h
    exact ⟨take16_eq_ok hx, rfl⟩
  | w32 =>
    obtain ⟨x, hx, rfl⟩ := map_eq_ok (f := ImmV.i32) h
    exact ⟨take32_eq_ok hx, rfl⟩

end Sys2Proof
end

section
/-! PROOFS. All parts of an instruction (30_encoding.md R81, R92): `Parts.Fits` says which parts a row's bytes are made
of. On those the decoder's first half is the inverse of the encoder up to the order of the marks, and they are the parts
of the instruction that its second half builds. -/

namespace Sys2Proof

/-- The parts are those of a row with the layout `y`: a part that the row does not have holds its default, a memory
operand can be spelt in the address size that the marks select, an immediate `iv` has the operand size they select. -/
structure Parts.Fits (z : Sizes) (q : Parts) (y : Layout) : Prop where
  row : q.op.layout = some y
  reg : y.modrm = false → q.reg = 0
  rm : y.modrm = false → q.rm = .reg 0
  mem : y.modrm = true → rmFits (q.marks.addrsizeIn z) q.rm
  ib : y.imm ≠ .byte → q.ib = 0
  iv : y.imm ≠ .full → q.iv = .i32 0
  size : y.imm = .full → q.iv.size = q.marks.opsizeIn z

/-! ### The bytes after the opcode -/

/-- The bytes of the immediate. -/
def Parts.immBytes (q : Parts) : ImmKind → List Byte
  | .no => []
  | .byte => [q.ib]
  | .full => q.iv.bytes

/-- The bytes of the operands. -/
def Parts.operandBytes (q : Parts) (y : Layout) : List Byte :=
  (if y.modrm then modrmBytes q.reg q.rm else []) ++ q.immBytes y.imm

/-- The bytes of the parts of a row. -/
theorem Parts.bytes_of_row {q : Parts} {y : Layout} (h : q.op.layout = some y) :
    q.bytes = q.marks.bytes ++ (q.op.bytes ++ q.operandBytes y) := by
  simp only [Parts.bytes, h, Parts.operandBytes, List.append_assoc]
  cases y.imm <;> rfl

/-- The immediate is read back into parts that hold the default in its place. -/
theorem takeImm_bytes {k : ImmKind} {v : OpSize} {q : Parts} (hib : k ≠ .byte → q.ib = 0)
    (hiv : k ≠ .full → q.iv = .i32 0) (hsize : k = .full → q.iv.size = v) (r : List Byte) :
    takeImm k v { q with ib := 0, iv := .i32 0 } (q.immBytes k ++ r) = .ok (q, r) := by
  obtain ⟨p, op, reg, rm, ib, iv⟩ := q
  cases k with
  | no =>
    obtain rfl : ib = 0 := hib nofun
    obtain rfl : iv = .i32 0 := hiv nofun
    rfl
  | byte => obtain rfl : iv = .i32 0 := hiv nofun; rfl
  | full =>
    obtain rfl : ib = 0 := hib nofun
    obtain rfl : iv.size = v := hsize rfl
    simp only [takeImm, Parts.immBytes, takeImmV_bytes]
    rfl

/-- What was read as the immediate, and that every other part stayed. -/
theorem takeImm_eq_ok {k : ImmKind} {v : OpSize} {q q' : Parts} {bs r : List Byte}
    (h : takeImm k v q bs = .ok (q', r)) :
    bs = q'.immBytes k ++ r ∧ q' = { q with ib := q'.ib, iv := q'.iv } ∧ (k ≠ .byte → q'.ib = q.ib) ∧
      (k ≠ .full → q'.iv = q.iv) ∧ (k = .full → q'.iv.size = v) := by
  cases k with
  | no => cases h; exact ⟨rfl, rfl, fun _ => rfl, fun _ => rfl, nofun⟩
  | byte =>
    obtain ⟨x, hx, rfl⟩ := map_eq_ok (f := fun x => ({ q with ib := x } : Parts)) (e := take8 bs) h
    exact ⟨take8_eq_ok hx, rfl, fun hne => absurd rfl hne, fun _ => rfl, nofun⟩
  | full =>
    obtain ⟨x, hx, rfl⟩ := map_eq_ok (f := fun x => ({ q with iv := x } : Parts)) (e := takeImmV v bs) h
    obtain ⟨rfl, hsize⟩ := takeImmV_eq_ok hx
    exact ⟨rfl, rfl, fun _ => rfl, fun hne => absurd rfl hne, fun _ => hsize⟩

/-- The operands are read back. -/
theorem takeOperands_bytes {z : Sizes} {q : Parts} {y : Layout} (h : q.Fits z y) (r : List Byte) :
    takeOperands z y { marks := q.marks, op := q.op } (q.operandBytes y ++ r) = .ok (q, r) := by
  have himm := takeImm_bytes h.ib h.iv h.size r
  obtain ⟨p, op, reg, rm, ib, iv⟩ := q
  cases hmodrm : y.modrm with
  | true =>
    simp only [takeOperands, Parts.operandBytes, hmodrm, if_true, List.append_assoc,
      takeModrm_bytes (h.mem hmodrm)]
    exact himm
  | false =>
    obtain rfl : reg = 0 := h.reg hmodrm
    obtain rfl : rm = .reg 0 := h.rm hmodrm
    simp only [takeOperands, Parts.operandBytes, hmodrm, Bool.false_eq_true, if_false, List.nil_append]
    exact himm

/-- What was read as the operands makes parts that fit the row. -/
theorem takeOperands_eq_ok {z : Sizes} {p : Marks} {op : Opcode} {q : Parts} {y : Layout} {bs r : List Byte}
    (hrow : op.layout = some y) (h : takeOperands z y { marks := p, op := op } bs = .ok (q, r)) :
    q.marks = p ∧ q.op = op ∧ q.Fits z y ∧ bs = q.operandBytes y ++ r := by
  rw [takeOperands] at h
  cases hmodrm : y.modrm with
  | true =>
    rw [if_pos hmodrm] at h
    split at h
    · cases h
    · next reg rm r' hmod =>
      obtain ⟨rfl, hq, hib, hiv, hsize⟩ := takeImm_eq_ok h
      obtain ⟨rfl, hfits⟩ := takeModrm_eq_ok hmod
      rw [hq]
      refine ⟨rfl, rfl, ⟨hrow, ?_, ?_, fun _ => hfits, hib, hiv, hsize⟩, ?_⟩
      · rw [hmodrm]; nofun
      · rw [hmodrm]; nofun
      · rw [Parts.operandBytes, if_pos hmodrm, List.append_assoc]
  | false =>
    rw [if_neg (by simp [hmodrm])] at h
    obtain ⟨rfl, hq, hib, hiv, hsize⟩ := takeImm_eq_ok h
    rw [hq]
    refine ⟨rfl, rfl, ⟨hrow, fun _ => rfl, fun _ => rfl, ?_, hib, hiv, hsize⟩, ?_⟩
    · rw [hmodrm]; nofun
    · rw [Parts.operandBytes, if_neg (by simp [hmodrm])]; rfl

/-! ### Opcode and marks -/

/-- No opcode byte of a row is a mark or 0F. -/
theorem not_mark_of_row {b : Byte} (h : (Opcode.one b).layout ≠ none) : markOf b = none ∧ b ≠ 0x0F := by
  have table : ∀ b : Byte, (Opcode.one b).layout = none ∨ markOf b = none ∧ b ≠ 0x0F := by decide
  exact (table b).resolve_left h

/-- An opcode of a row ends the marks. -/
theorem takeMarks_opcode {op : Opcode} (h : op.layout ≠ none) (bs : List Byte) (p : Marks) :
    takeMarks (op.bytes ++ bs) p = .ok (p, op.bytes ++ bs) := by
  cases op with
  | one b => exact takeMarks_of_not_mark (not_mark_of_row h).1 bs p
  | esc b => exact takeMarks_of_not_mark rfl (b :: bs) p

/-- An opcode that is not the byte 0F alone is read back. -/
theorem takeOpcode_bytes {op : Opcode} (h : op ≠ .one 0x0F) (bs : List Byte) :
    takeOpcode (op.bytes ++ bs) = .ok (op, bs) := by
  cases op with
  | one b => exact if_neg fun hb : b = 0x0F => h (congrArg Opcode.one hb)
  | esc b => rfl

/-- The opcode that was read. -/
theorem takeOpcode_eq_ok {op : Opcode} {bs r : List Byte} (h : takeOpcode bs = .ok (op, r)) : bs = op.bytes ++ r := by
  match bs, h with
  | b :: bs, h =>
    by_cases hb : b = 0x0F
    · subst hb
      match bs, h with
      | c :: cs, h => cases h; rfl
    · simp only [takeOpcode, if_neg hb] at h
      cases h; rfl

/-- After the marks, the opcode of a row and its operands are left. -/
theorem takeParts_of_marks {z : Sizes} {op : Opcode} {y : Layout} (hrow : op.layout = some y) {ps bs : List Byte}
    {p : Marks} (h : takeMarks ps .empty = .ok (p, op.bytes ++ bs)) :
    takeParts z ps = takeOperands z y { marks := p, op := op } bs := by
  have hop : op ≠ .one 0x0F := by rintro rfl; cases hrow
  simp only [takeParts, h, takeOpcode_bytes hop, hrow]

/-! ### All parts -/

/-- The parts are read back from the encoder's bytes, and from the bytes with the marks in any other order. -/
theorem takeParts_bytes {z : Sizes} {q : Parts} {y : Layout} (h : q.Fits z y) {ms : List Byte}
    (hperm : ms.Perm q.marks.bytes) (hms : ∀ b ∈ ms, Claims.isMark b = true) (r : List Byte) :
    takeParts z (ms ++ (q.op.bytes ++ (q.operandBytes y ++ r))) = .ok (q, r) := by
  have hmarks : takeMarks (ms ++ (q.op.bytes ++ (q.operandBytes y ++ r))) .empty =
      .ok (q.marks, q.op.bytes ++ (q.operandBytes y ++ r)) := by
    rw [takeMarks_perm hperm hms, takeMarks_bytes, takeMarks_opcode (by simp [h.row])]
  rw [takeParts_of_marks h.row hmarks, takeOperands_bytes h]

/-- The parts that were read fit a row, and the bytes they were read from are theirs up to the order of the marks. -/
theorem takeParts_eq_ok {z : Sizes} {q : Parts} {bs r : List Byte} (h : takeParts z bs = .ok (q, r)) :
    ∃ y ms, q.Fits z y ∧ bs = ms ++ (q.op.bytes ++ (q.operandBytes y ++ r)) ∧ ms.Perm q.marks.bytes ∧
      ∀ b ∈ ms, Claims.isMark b = true := by
  unfold takeParts at h
  split at h
  · cases h
  · next p bs1 hmarks =>
    split at h
    · cases h
    · next op bs2 hop =>
      split at h
      · cases h
      · next y hrow =>
        obtain ⟨rfl, rfl, hfits, rfl⟩ := takeOperands_eq_ok hrow h
        obtain rfl := takeOpcode_eq_ok hop
        obtain ⟨ms, rfl, hms, hperm⟩ := takeMarks_eq_ok hmarks
        rw [show Marks.empty.bytes = [] from rfl, List.append_nil] at hperm
        exact ⟨y, ms, hfits, rfl, hperm, hms⟩

/-! ### The parts of an instruction (R93 to R101) -/

@[simp] theorem RM.bits8_map_ofBits (x : RM (BitVec 3)) : RM.bits8 (x.map Reg8.ofBits) = x := by
  cases x <;> simp [RM.bits8, RM.map, Reg8.toBits_ofBits]

@[simp] theorem RM.bitsv_map_ofBits (x : RM (BitVec 3)) : RM.bitsv (x.map Reg.ofBits) = x := by
  cases x <;> simp [RM.bitsv, RM.map, Reg.toBits_ofBits]

/-- A field is the word of its number. -/
theorem eq_ofNat_of_toNat {w n : Nat} {x : BitVec w} (h : x.toNat = n) : x = BitVec.ofNat w n := by
  rw [← h, BitVec.ofNat_toNat, BitVec.setWidth_eq]

/-- The instruction that is built from the parts of a row has those parts. -/
theorem parts_of_build {z : Sizes} {q : Parts} {y : Layout} {i : Instr} (hf : q.Fits z y) (h : build z q = .ok i) :
    i.parts = q ∧ i.shape.sizeOk z = true := by
  obtain ⟨p, op, reg, rm, ib, iv⟩ := q
  obtain ⟨hrow, hreg, hrm, -, hib, hiv, hsize⟩ := hf
  dsimp only at hrow hreg hrm hib hiv hsize
  cases op with
  | one b | esc b =>
    dsimp only [build, buildOne, buildEsc] at h
    split at h <;> (try split at h) <;> cases h
    all_goals obtain rfl := eq_ofNat_of_toNat ‹b.toNat = _›
    all_goals try have hext := eq_ofNat_of_toNat ‹reg.toNat = _›
    all_goals
      cases hrow
      simp_all [Instr.parts, Instr.shape, Shape.sizeOk, Parts.rm8, Parts.rmv, Parts.reg8, Parts.regv,
        Reg.toBits_ofBits, Reg8.toBits_ofBits]

/-- The parts of an instruction are those of a row: the parts the row does not have hold their defaults, and an immediate
`iv` is as wide as the operand size. -/
theorem Instr.exists_layout (i : Instr) : ∃ y, i.parts.op.layout = some y ∧
    (y.modrm = false → i.parts.reg = 0 ∧ i.parts.rm = .reg 0) ∧ (y.imm ≠ .byte → i.parts.ib = 0) ∧
      (y.imm ≠ .full → i.parts.iv = .i32 0) ∧ (y.imm = .full → i.shape.size = some i.parts.iv.size) := by
  cases i <;> exact ⟨_, rfl, by simp [Instr.parts], by simp [Instr.parts], by simp [Instr.parts],
    by simp [Instr.parts, Instr.shape]⟩

/-- The marks of an instruction's parts are its own. -/
@[simp] theorem Instr.parts_marks (i : Instr) : i.parts.marks = i.marks := by cases i <;> rfl

/-- The memory operand of an instruction's parts is its own. -/
theorem Instr.parts_mem (i : Instr) : i.parts.rm.mem? = i.shape.mem := by
  cases i <;> simp [Instr.parts, Instr.shape] <;> rfl

/-- The rows that take LOCK are told by opcode and `reg` field. -/
theorem Instr.lockRow_parts (i : Instr) : lockRow i.parts.op i.parts.reg = i.shape.lockOk := by cases i <;> rfl

/-- LOCK fits the parts of an instruction when it fits the instruction. -/
theorem Instr.lockFits_parts (i : Instr) : i.parts.lockFits = i.shape.lockFits := by
  rw [Parts.lockFits, Shape.lockFits, i.lockRow_parts, i.parts_mem, i.parts_marks]; rfl

/-- The marks' bytes are admitted marks. -/
theorem Marks.isMark_bytes (p : Marks) : ∀ b ∈ p.bytes, Claims.isMark b = true := by
  obtain ⟨o, a, g, l⟩ := p
  have hseg : ∀ g : Seg, Claims.isMark g.markByte = true := fun g => isMark_of_markOf (markOf_markByte g) nofun
  have hbyte : Claims.isMark 0xF0#8 = true ∧ Claims.isMark 0x66#8 = true ∧ Claims.isMark 0x67#8 = true := by decide
  cases l <;> cases o <;> cases a <;> cases g <;> simp [Marks.bytes_mk, hseg, hbyte]

/-- The parts of an instruction that the encoding admits but for LOCK fit its row. -/
theorem Instr.exists_fits {z : Sizes} {i : Instr} (h : i.wfRaw z = true) : ∃ y, i.parts.Fits z y := by
  obtain ⟨hsizeOk, hmemOk⟩ := Bool.and_eq_true_iff.mp h
  obtain ⟨y, hrow, hmodrm, hib, hiv, hsize⟩ := i.exists_layout
  refine ⟨y, hrow, fun hy => (hmodrm hy).1, fun hy => (hmodrm hy).2, fun _ m hm => ?mem, hib, hiv, fun hy => ?size⟩
  case mem =>
    have hshape : i.shape.mem = some m := by rw [← i.parts_mem, hm]; rfl
    rw [Shape.memOk, hshape] at hmemOk
    simpa [Instr.marks] using hmemOk
  case size =>
    rw [Shape.sizeOk, hsize hy] at hsizeOk
    simpa [Instr.marks] using hsizeOk

/-- An instruction whose parts fit a row is one that the encoding admits but for LOCK. -/
theorem Instr.wfRaw_of_fits {z : Sizes} {i : Instr} {y : Layout} (hf : i.parts.Fits z y)
    (hsize : i.shape.sizeOk z = true) : i.wfRaw z = true := by
  refine Bool.and_eq_true_iff.mpr ⟨hsize, ?_⟩
  rw [Shape.memOk]
  split
  · rfl
  · next m hm =>
    rw [← i.parts_mem] at hm
    cases hmodrm : y.modrm with
    | false => rw [hf.rm hmodrm] at hm; cases hm
    | true =>
      have hrm : i.parts.rm = .mem m := by
        cases hrm : i.parts.rm with
        | reg n => rw [hrm] at hm; cases hm
        | mem m' => rw [hrm] at hm; cases hm; rfl
      simpa [Instr.marks] using hf.mem hmodrm m hrm

end Sys2Proof
end

section
/-! PROOFS. The decoder and the encoder (30_encoding.md R81 to R101): each is the other's inverse on the instructions that
the encoding admits, up to the order of the marks. -/

namespace Sys2Proof

open Sys2Proof.Claims

/-! ### From parts to the instruction -/

/-- The decoder's second half gives back every instruction from its parts, when its operand size is the one its marks
select. -/
theorem build_parts (i : Instr) : Laws.BuildOfParts.Statement i := by
  open Laws.BuildOfParts in
  exact Instr.casesOn (motive := Statement) i
    orRm8R8 orRmvRv orR8Rm8 orRvRmv orAlImm8 orEaxImmv orRm8Imm8 orRmvImmv orRmvImm8sx
    andRm8R8 andRmvRv andR8Rm8 andRvRmv andAlImm8 andEaxImmv andRm8Imm8 andRmvImmv andRmvImm8sx
    xorRm8R8 xorRmvRv xorR8Rm8 xorRvRmv xorAlImm8 xorEaxImmv xorRm8Imm8 xorRmvImmv xorRmvImm8sx
    notRm8 notRmv
    btRmvRv btRmvImm8 btsRmvRv btsRmvImm8 btrRmvRv btrRmvImm8 btcRmvRv btcRmvImm8 bsfRvRmv bsrRvRmv
    rolRm8One rolRmvOne rolRm8Cl rolRmvCl rolRm8Imm8 rolRmvImm8
    rorRm8One rorRmvOne rorRm8Cl rorRmvCl rorRm8Imm8 rorRmvImm8
    rclRm8One rclRmvOne rclRm8Cl rclRmvCl rclRm8Imm8 rclRmvImm8
    rcrRm8One rcrRmvOne rcrRm8Cl rcrRmvCl rcrRm8Imm8 rcrRmvImm8
    shlRm8One shlRmvOne shlRm8Cl shlRmvCl shlRm8Imm8 shlRmvImm8
    shrRm8One shrRmvOne shrRm8Cl shrRmvCl shrRm8Imm8 shrRmvImm8
    sarRm8One sarRmvOne sarRm8Cl sarRmvCl sarRm8Imm8 sarRmvImm8
    shldRmvRvImm8 shldRmvRvCl shrdRmvRvImm8 shrdRmvRvCl
    seto setno setc setnc sete setne setbe setnbe sets setns setp setnp setl setnl setle setnle
    jcRel8 jcRelv jncRel8 jncRelv idivRm8 idivRmv

/-! ### The decoder up to LOCK -/

/-- What the decoder reads up to LOCK is admitted, and is its own encoding up to the order of the marks. -/
theorem decodeRaw_eq_ok {z : Sizes} {i : Instr} {bs r : List Byte} (h : decodeRaw z bs = .ok (i, r)) :
    i.wfRaw z = true ∧ ∃ ms body, bs = ms ++ (body ++ r) ∧ encode i = i.marks.bytes ++ body ∧
      ms.Perm i.marks.bytes := by
  unfold decodeRaw at h
  split at h
  · cases h
  · next q r' hparts =>
    split at h
    · cases h
    · next i' hbuild =>
      cases h
      obtain ⟨y, ms, hfits, rfl, hperm, -⟩ := takeParts_eq_ok hparts
      obtain ⟨rfl, hsize⟩ := parts_of_build hfits hbuild
      rw [i.parts_marks] at hperm
      exact ⟨Instr.wfRaw_of_fits hfits hsize, ms, i.parts.op.bytes ++ i.parts.operandBytes y,
        by rw [List.append_assoc], by rw [encode, Parts.bytes_of_row hfits.row, i.parts_marks], hperm⟩

/-- An admitted instruction is read from its bytes, the marks being in any order. -/
theorem decodeRaw_bytes {z : Sizes} {i : Instr} (h : i.wfRaw z = true) {ms body : List Byte}
    (hbody : encode i = i.marks.bytes ++ body) (hperm : ms.Perm i.marks.bytes) (r : List Byte) :
    decodeRaw z (ms ++ (body ++ r)) = .ok (i, r) := by
  obtain ⟨y, hfits⟩ := Instr.exists_fits h
  have hms : ∀ b ∈ ms, isMark b = true := fun b hb => i.marks.isMark_bytes b (hperm.mem_iff.mp hb)
  obtain rfl : i.parts.op.bytes ++ i.parts.operandBytes y = body := by
    rw [encode, Parts.bytes_of_row hfits.row, i.parts_marks] at hbody
    exact List.append_cancel_left hbody
  have hparts := takeParts_bytes hfits (by rwa [i.parts_marks]) hms r
  obtain ⟨hsize, -⟩ := Bool.and_eq_true_iff.mp h
  simp only [decodeRaw, List.append_assoc, hparts, build_parts i z hsize]

/-- LOCK is judged last: the decoder refuses what it read where LOCK does not fit, and for no other reason. -/
theorem decode_of_decodeRaw {z : Sizes} {i : Instr} {bs r : List Byte} (h : decodeRaw z bs = .ok (i, r)) :
    decode z bs = if i.shape.lockFits then .ok (i, r) else .error .lockNotAccepted := by
  unfold decodeRaw at h
  split at h
  · cases h
  · next q r' hparts =>
    split at h
    · cases h
    · next i' hbuild =>
      cases h
      obtain ⟨y, ms, hfits, -⟩ := takeParts_eq_ok hparts
      obtain ⟨rfl, -⟩ := parts_of_build hfits hbuild
      simp only [decode, hparts, hbuild, i.lockFits_parts]

/-- What the decoder answers it has read, and LOCK fits it. -/
theorem decode_eq_ok {z : Sizes} {i : Instr} {bs r : List Byte} (h : decode z bs = .ok (i, r)) :
    decodeRaw z bs = .ok (i, r) ∧ i.shape.lockFits = true := by
  have hraw : ∃ j r', decodeRaw z bs = .ok (j, r') := by
    unfold decode at h
    split at h
    · cases h
    · next q r' hparts =>
      split at h
      · cases h
      · next j hbuild => exact ⟨j, r', by simp only [decodeRaw, hparts, hbuild]⟩
  obtain ⟨j, r', hraw⟩ := hraw
  rw [decode_of_decodeRaw hraw] at h
  split at h
  · next hlock => cases h; exact ⟨hraw, hlock⟩
  · cases h

/-- What the decoder answers is well-formed. -/
theorem wf_of_decode {z : Sizes} {i : Instr} {bs r : List Byte} (h : decode z bs = .ok (i, r)) : i.wf z = true := by
  obtain ⟨hraw, hlock⟩ := decode_eq_ok h
  exact Bool.and_eq_true_iff.mpr ⟨(decodeRaw_eq_ok hraw).1, hlock⟩

/-- A well-formed instruction is read from its bytes, the marks being in any order. -/
theorem decode_bytes {z : Sizes} {i : Instr} (h : i.wf z = true) {ms body : List Byte}
    (hbody : encode i = i.marks.bytes ++ body) (hperm : ms.Perm i.marks.bytes) (r : List Byte) :
    decode z (ms ++ (body ++ r)) = .ok (i, r) := by
  obtain ⟨hraw, hlock⟩ := Bool.and_eq_true_iff.mp h
  rw [decode_of_decodeRaw (decodeRaw_bytes hraw hbody hperm r), if_pos hlock]

/-- The bytes an instruction was read from are as many as its length. -/
theorem length_of_decodeRaw {z : Sizes} {i : Instr} {bs r : List Byte} (h : decodeRaw z bs = .ok (i, r)) :
    bs.length = i.length + r.length := by
  obtain ⟨-, ms, body, rfl, hbody, hperm⟩ := decodeRaw_eq_ok h
  simp [Instr.length, hbody, hperm.length_eq, Nat.add_assoc]

/-- Settles O2: the encoder's order of the marks is one of the orders that the decoder takes. -/
theorem decodeOfEncode : Obligations.DecodeOfEncode := by
  intro z i rest hwf
  obtain ⟨y, hrow, -⟩ := i.exists_layout
  have hbody : encode i = i.marks.bytes ++ (i.parts.op.bytes ++ i.parts.operandBytes y) := by
    rw [encode, Parts.bytes_of_row hrow, i.parts_marks]
  rw [hbody, List.append_assoc]
  exact decode_bytes hwf hbody (.refl _) rest

/-- Settles O3: the bytes taken are marks and a body; with other bytes after them they are still the instruction's. -/
theorem decodeConsumesItsLength : Obligations.DecodeConsumesItsLength := by
  intro z bs r i h
  have hwf := wf_of_decode h
  obtain ⟨-, ms, body, rfl, hbody, hperm⟩ := decodeRaw_eq_ok (decode_eq_ok h).1
  refine ⟨hwf, ms, body, (List.append_assoc ..).symm, hbody, hperm, ?length, fun r' => ?others⟩
  case length => simp [Instr.length, hbody, hperm.length_eq]
  case others => rw [List.append_assoc]; exact decode_bytes hwf hbody hperm r'

/-! ### The length (R81) -/

/-- At most four marks. -/
theorem Marks.length_bytes_le (p : Marks) : p.bytes.length ≤ 4 := by
  obtain ⟨o, a, g, l⟩ := p
  cases o <;> cases a <;> cases g <;> cases l <;> simp [Marks.bytes_mk]

/-- ModR/M, SIB and displacement have at most six bytes. -/
theorem length_modrmBytes_le (reg : BitVec 3) (rm : RM (BitVec 3)) : (modrmBytes reg rm).length ≤ 6 := by
  match rm with
  | .reg n => exact Nat.one_le_ofNat
  | .mem (.a32 sib base index disp) =>
    cases sib <;> cases disp <;> simp [modrmBytes_a32, mem32Tail, disp32Bytes, bytes32]
  | .mem (.a16 base index disp) => cases disp <;> simp [modrmBytes_a16, disp16Bytes, bytes16]

/-- An immediate has at most four bytes, a byte immediate one. -/
theorem Parts.length_immBytes_le (q : Parts) (k : ImmKind) :
    (q.immBytes k).length ≤ 4 ∧ (k ≠ .full → (q.immBytes k).length ≤ 1) := by
  cases k with
  | no | byte => simp [Parts.immBytes]
  | full => cases h : q.iv <;> simp [Parts.immBytes, h, ImmV.bytes, bytes16, bytes32]

/-- No row of two opcode bytes has both a ModR/M byte and an immediate of the operand size. -/
theorem layout_esc {b : Byte} {y : Layout} (h : (Opcode.esc b).layout = some y) : y.modrm = false ∨ y.imm ≠ .full := by
  have table : ∀ b : Byte, ((Opcode.esc b).layout.all fun y => decide (y.modrm = false ∨ y.imm ≠ .full)) = true := by
    decide
  simpa [h] using table b

/-- Settles O4: four marks, at most two opcode bytes, six for the memory operand and four for the immediate would make
sixteen, but no row with two opcode bytes has both a ModR/M byte and an immediate of four. -/
theorem lengthWithinFifteen : Obligations.LengthWithinFifteen := by
  intro i
  obtain ⟨y, hrow, -⟩ := i.exists_layout
  have hmarks := i.marks.length_bytes_le
  have hmodrm : (if y.modrm then modrmBytes i.parts.reg i.parts.rm else []).length ≤ if y.modrm then 6 else 0 := by
    split
    · exact length_modrmBytes_le _ _
    · exact Nat.le_refl 0
  obtain ⟨himm, hbyte⟩ := i.parts.length_immBytes_le y.imm
  have hlength : i.length = i.marks.bytes.length + (i.parts.op.bytes.length +
      ((if y.modrm then modrmBytes i.parts.reg i.parts.rm else []).length + (i.parts.immBytes y.imm).length)) := by
    simp only [Instr.length, encode, Parts.bytes_of_row hrow, i.parts_marks, Parts.operandBytes, List.length_append]
  rw [hlength]
  clear hlength
  generalize (if y.modrm then modrmBytes i.parts.reg i.parts.rm else []).length = n at hmodrm ⊢
  cases hop : i.parts.op with
  | one b =>
    simp only [Opcode.bytes, List.length_cons, List.length_nil]
    split at hmodrm <;> omega
  | esc b =>
    rw [hop] at hrow
    simp only [Opcode.bytes, List.length_cons, List.length_nil]
    rcases layout_esc hrow with hno | hfull
    · rw [if_neg (by simp [hno])] at hmodrm; omega
    · have := hbyte hfull
      split at hmodrm <;> omega

end Sys2Proof
end

section
/-! PROOFS. What is no instruction (30_encoding.md R82, R89, R99, R110). Whatever marks stand before an opcode, the decoder
comes to it with those marks' kinds set (`takeMarks_append_eq_ok`), and what it accepts there has a row, an operand it could
read and a `reg` field that the row knows (`decode_opcode_eq_ok`). -/

namespace Sys2Proof

open Sys2Proof.Claims

/-! ### Marks before other bytes -/

/-- The byte is a mark of this kind. -/
def marksKind (k : MarkByte) (b : Byte) : Bool := (markOf b).any (·.like k)

/-- After marks at the head the decoder goes on with those kinds set besides the ones before. -/
theorem takeMarks_append_eq_ok {ps bs : List Byte} (hps : ∀ b ∈ ps, isMark b = true) {p : Marks}
    {x : Marks × List Byte} (h : takeMarks (ps ++ bs) p = .ok x) :
    ∃ p1, takeMarks bs p1 = .ok x ∧ ∀ k, p1.has k = (p.has k || ps.any (marksKind k)) := by
  induction ps generalizing p with
  | nil => exact ⟨p, h, by simp⟩
  | cons b ps ih =>
    obtain ⟨j, hj, hb⟩ := exists_markOf_of_isMark (hps b (by simp))
    rw [List.cons_append, takeMarks_cons hb] at h
    cases hadd : p.add j with
    | error e => rw [hadd] at h; cases h
    | ok q =>
      rw [hadd] at h
      obtain ⟨-, -, rfl⟩ := Marks.add_eq_ok hadd
      obtain ⟨p1, h1, hhas⟩ := ih (fun b hb => hps b (by simp [hb])) h
      exact ⟨p1, h1, fun k => by simp [hhas, Marks.has_put, marksKind, hb, Bool.or_assoc]⟩

/-- What the decoder accepts begins with marks that it could take. -/
theorem exists_takeMarks_of_decode {z : Sizes} {bs : List Byte} {x : Instr × List Byte} (h : decode z bs = .ok x) :
    ∃ y, takeMarks bs .empty = .ok y := by
  unfold decode takeParts at h
  cases hmarks : takeMarks bs .empty with
  | error e => rw [hmarks] at h; cases h
  | ok y => exact ⟨y, rfl⟩

/-- A REP byte is refused behind any marks (R82). -/
theorem decode_rep_ne_ok {b : Byte} (hb : markOf b = some .repeat) {z : Sizes} {ps : List Byte}
    (hps : ∀ x ∈ ps, isMark x = true) (rest : List Byte) (x : Instr × List Byte) :
    decode z (ps ++ b :: rest) ≠ .ok x := by
  intro h
  obtain ⟨y, hy⟩ := exists_takeMarks_of_decode h
  obtain ⟨p, hp, -⟩ := takeMarks_append_eq_ok hps hy
  rw [takeMarks_cons hb] at hp
  cases hp

/-- Marks of one kind by their bytes are marks of one kind. -/
theorem exists_markOf_of_sameKind {b c : Byte} (hb : isMark b = true) (h : sameKind b c = true) :
    ∃ j k, j ≠ .repeat ∧ k ≠ .repeat ∧ markOf b = some j ∧ markOf c = some k ∧ j.like k = true := by
  have seg : ∀ x : Byte, segMarks.contains x = true → ∃ g, markOf x = some (.seg g) := by
    intro x hx
    simp only [segMarks, List.contains_cons, List.contains_nil, Bool.or_false, Bool.or_eq_true, beq_iff_eq] at hx
    rcases hx with rfl | rfl | rfl | rfl | rfl | rfl <;> exact ⟨_, rfl⟩
  rcases Bool.or_eq_true_iff.mp h with heq | hseg
  · obtain rfl := of_decide_eq_true heq
    obtain ⟨k, hk, hkb⟩ := exists_markOf_of_isMark hb
    exact ⟨k, k, hk, hk, hkb, hkb, by cases k <;> simp_all [MarkByte.like]⟩
  · obtain ⟨hb, hc⟩ := Bool.and_eq_true_iff.mp hseg
    obtain ⟨g, hg⟩ := seg b hb
    obtain ⟨g', hg'⟩ := seg c hc
    exact ⟨.seg g, .seg g', nofun, nofun, hg, hg', rfl⟩

/-- A second mark of one kind is refused, whatever marks stand before and between (R82). -/
theorem decode_second_ne_ok {z : Sizes} {b c : Byte} (hb : isMark b = true) (hbc : sameKind b c = true)
    {ps qs : List Byte} (hps : ∀ x ∈ ps, isMark x = true) (hqs : ∀ x ∈ qs, isMark x = true) (rest : List Byte)
    (x : Instr × List Byte) : decode z (ps ++ b :: (qs ++ c :: rest)) ≠ .ok x := by
  intro h
  obtain ⟨j, k, hj, hk, hjb, hkc, hlike⟩ := exists_markOf_of_sameKind hb hbc
  obtain ⟨y, hy⟩ := exists_takeMarks_of_decode h
  have hmarks : ∀ x ∈ ps ++ b :: qs, isMark x = true := by
    intro x hx
    rcases List.mem_append.mp hx with hx | hx
    · exact hps x hx
    · rcases List.mem_cons.mp hx with rfl | hx
      · exact hb
      · exact hqs x hx
  rw [← List.cons_append, ← List.append_assoc] at hy
  obtain ⟨p, hp, hhas⟩ := takeMarks_append_eq_ok hmarks hy
  have there : p.has k = true := by simp [hhas, marksKind, hjb, hlike]
  rw [takeMarks_cons hkc, Marks.add_eq p hk, if_pos there] at hp
  cases hp

/-! ### Behind the marks -/

/-- What the decoder accepts behind the marks: an opcode with a row, operands it could read, and a row it could build. -/
theorem decode_opcode_eq_ok {z : Sizes} {ps rest r : List Byte} (hps : ∀ x ∈ ps, isMark x = true) {op : Opcode}
    (hop : op ≠ .one 0x0F) (hmark : ∀ b, op = .one b → markOf b = none) {i : Instr}
    (h : decode z (ps ++ (op.bytes ++ rest)) = .ok (i, r)) :
    ∃ p y q, (∀ k, p.has k = ps.any (marksKind k)) ∧ op.layout = some y ∧
      takeOperands z y { marks := p, op := op } rest = .ok (q, r) ∧ build z q = .ok i := by
  obtain ⟨⟨p, bs⟩, hy⟩ := exists_takeMarks_of_decode h
  obtain ⟨p1, hp1, hhas⟩ := takeMarks_append_eq_ok hps hy
  have hend : takeMarks (op.bytes ++ rest) p1 = .ok (p1, op.bytes ++ rest) := by
    cases op with
    | one b => exact takeMarks_of_not_mark (hmark b rfl) rest p1
    | esc b => exact takeMarks_of_not_mark rfl (b :: rest) p1
  obtain ⟨rfl, rfl⟩ := Prod.mk.inj (Except.ok.inj (hp1.symm.trans hend))
  refine ⟨p, ?_⟩
  simp only [decode, takeParts, hy, takeOpcode_bytes hop] at h
  cases hrow : op.layout with
  | none => simp [hrow] at h
  | some y =>
    simp only [hrow] at h
    split at h
    · cases h
    · next q r' hq =>
      split at h
      · cases h
      · next j hbuild =>
        split at h
        · cases h
          refine ⟨y, q, fun k => (hhas k).trans ?_, rfl, hq, hbuild⟩
          cases k <;> rfl
        · cases h

/-- A byte that is no mark, not 0F, and no opcode of a row, is refused behind any marks (R110). -/
theorem decode_no_row_ne_ok {z : Sizes} {ps : List Byte} (hps : ∀ x ∈ ps, isMark x = true) {op : Opcode}
    (hop : op ≠ .one 0x0F) (hmark : ∀ b, op = .one b → isMark b = false) (hrow : op.layout = none) (rest : List Byte)
    (x : Instr × List Byte) : decode z (ps ++ (op.bytes ++ rest)) ≠ .ok x := by
  intro h
  by_cases hrep : ∃ b, op = .one b ∧ markOf b = some .repeat
  · obtain ⟨b, rfl, hb⟩ := hrep
    exact decode_rep_ne_ok hb hps rest x h
  · have hnone : ∀ b, op = .one b → markOf b = none := by
      intro b hb
      cases hkind : markOf b with
      | none => rfl
      | some k =>
        have hk : k ≠ .repeat := by rintro rfl; exact hrep ⟨b, hb, hkind⟩
        exact absurd (isMark_of_markOf hkind hk) (by simp [hmark b hb])
    obtain ⟨-, y, -, -, hy, -⟩ := decode_opcode_eq_ok hps hop hnone h
    rw [hrow] at hy
    cases hy

/-- The `reg` field of a ModR/M byte. -/
theorem reg_of_modrmBytes {m : Byte} {reg : BitVec 3} {rm : RM (BitVec 3)} {l bs : List Byte}
    (h : m :: bs = modrmBytes reg rm ++ l) : m.extractLsb' 3 3 = reg := by
  match rm with
  | .reg n => rw [(List.cons.inj h).1, modrmByte_reg]
  | .mem (.a32 sib base index disp) =>
    rw [modrmBytes_a32] at h
    rw [(List.cons.inj h).1, modrmByte_reg]
  | .mem (.a16 base index disp) => rw [(List.cons.inj h).1, modrmByte_reg]

/-- A `reg` field that the row does not know is refused behind any marks (R97, R99, R110). -/
theorem decode_reg_ne_ok {z : Sizes} {ps : List Byte} (hps : ∀ x ∈ ps, isMark x = true) {op : Opcode} {y : Layout}
    (hrow : op.layout = some y) (hmodrm : y.modrm = true) {m : Byte}
    (hreg : ∀ q : Parts, q.op = op → q.reg = m.extractLsb' 3 3 → build z q = .error .unknownExtension)
    (rest : List Byte) (x : Instr × List Byte) : decode z (ps ++ (op.bytes ++ m :: rest)) ≠ .ok x := by
  intro h
  have hop : op ≠ .one 0x0F := by rintro rfl; cases hrow
  have hmark : ∀ b, op = .one b → markOf b = none := by
    rintro b rfl; exact (not_mark_of_row (by simp [hrow])).1
  obtain ⟨p, y', q, -, hy', hq, hbuild⟩ := decode_opcode_eq_ok hps hop hmark h
  obtain rfl := Option.some.inj (hrow.symm.trans hy')
  obtain ⟨-, hqop, -, hbytes⟩ := takeOperands_eq_ok hrow hq
  rw [Parts.operandBytes, if_pos hmodrm, List.append_assoc] at hbytes
  rw [hreg q hqop (reg_of_modrmBytes hbytes).symm] at hbuild
  cases hbuild

/-- The decoder knows that 67 is among the marks. -/
theorem any_marksKind_addrsize (ps : List Byte) : ps.any (marksKind .addrsize) = ps.contains 0x67 := by
  have table : ∀ b : Byte, marksKind .addrsize b = (0x67 == b) := by decide
  rw [List.contains_eq_any_beq]
  exact congrArg ps.any (funext table)

/-- An SIB byte with no index and a scale is refused (R89). -/
theorem takeOperands_scaled_eq_error {z : Sizes} {y : Layout} (hmodrm : y.modrm = true) {q : Parts}
    (hasz : q.marks.addrsizeIn z = .w32) {m b : Byte} (hmd : m.extractLsb' 6 2 ≠ 3) (hrm : m.extractLsb' 0 3 = 4)
    (hidx : b.extractLsb' 3 3 = 4) (hss : b.extractLsb' 6 2 ≠ 0) (rest : List Byte) :
    takeOperands z y q (m :: b :: rest) = .error .scaledNoIndex := by
  have hmod : takeModrm .w32 (m :: b :: rest) = .error .scaledNoIndex := by
    rw [← modrmByte_fields m, takeModrm_mem _ hmd, takeMem, takeMem32_sib hrm, sibIndex, if_pos hidx, if_neg hss]
    rfl
  simp only [takeOperands, if_pos hmodrm, hasz, hmod]

/-- Settles O6: REP bytes, second marks, `reg` fields, opcodes without a row and SIB bytes, each refused by the lemma that
names it. -/
theorem reservedEncodingsRefused : Obligations.ReservedEncodingsRefused := by
  intro z ps hps m b rest i r
  refine ⟨decode_rep_ne_ok rfl hps rest _, decode_rep_ne_ok rfl hps rest _,
    fun c qs hb hbc hqs => decode_second_ne_ok hb hbc hps hqs rest _, fun hb hm => ?shift, fun hb hm => ?imm,
    fun hb hm => ?group3, fun hm => ?bitTest, fun hlo hhi hm => ?setcc,
    decode_no_row_ne_ok hps (op := .one 0x82) (by decide) (by rintro _ ⟨⟩; decide) rfl rest _,
    fun hrow hb h0F => ?one, fun hrow => decode_no_row_ne_ok hps (op := .esc b) nofun nofun hrow rest _,
    fun op y hrow hmodrm hasz hmd hrm hidx hss => ?sib⟩
  case shift =>
    simp only [List.mem_cons, List.not_mem_nil, or_false] at hb
    rcases hb with rfl | rfl | rfl | rfl | rfl | rfl <;>
      exact decode_reg_ne_ok hps (op := .one _) rfl rfl (fun q hop hreg => by simp [build, hop, buildOne, hreg, hm])
        rest _
  case imm =>
    simp only [List.mem_cons, List.not_mem_nil, or_false] at hb hm
    rcases hb with rfl | rfl | rfl <;> rcases hm with hm | hm | hm | hm | hm <;>
      exact decode_reg_ne_ok hps (op := .one _) rfl rfl (fun q hop hreg => by simp [build, hop, buildOne, hreg, hm])
        rest _
  case group3 =>
    simp only [List.mem_cons, List.not_mem_nil, or_false] at hb hm
    rcases hb with rfl | rfl <;> rcases hm with hm | hm | hm | hm | hm | hm <;>
      exact decode_reg_ne_ok hps (op := .one _) rfl rfl (fun q hop hreg => by simp [build, hop, buildOne, hreg, hm])
        rest _
  case bitTest =>
    simp only [List.mem_cons, List.not_mem_nil, or_false] at hm
    rcases hm with hm | hm | hm | hm <;>
      exact decode_reg_ne_ok hps (op := .esc 0xBA) rfl rfl
        (fun q hop hreg => by simp [build, hop, buildEsc, hreg, hm]) rest _
  case setcc =>
    have hno : (m.extractLsb' 3 3).toNat = 0 → False := fun h0 => hm (BitVec.eq_of_toNat_eq h0)
    generalize hn : b.toNat = n at hlo hhi
    obtain rfl := eq_ofNat_of_toNat hn
    interval_cases n <;>
      exact decode_reg_ne_ok hps (op := .esc _) rfl rfl
        (fun q hop hreg => by simp only [build, hop, buildEsc, hreg, BitVec.reduceToNat]) rest _
  case one =>
    exact decode_no_row_ne_ok hps (op := .one b) (by simpa using h0F) (by rintro _ ⟨⟩; exact hb) hrow rest _
  case sib =>
    intro h
    have hop : op ≠ .one 0x0F := by rintro rfl; cases hrow
    have hmark : ∀ b, op = .one b → markOf b = none := by
      rintro b rfl; exact (not_mark_of_row (by simp [hrow])).1
    rw [List.append_assoc] at h
    obtain ⟨p, y', q, hhas, hy', hq, -⟩ := decode_opcode_eq_ok hps hop hmark h
    obtain rfl := Option.some.inj (hrow.symm.trans hy')
    have hp : p.addrsizeIn z = .w32 := by
      rw [Marks.addrsizeIn, show p.addrsize = ps.contains 0x67 from
        (hhas .addrsize).trans (any_marksKind_addrsize ps)]
      exact hasz
    rw [takeOperands_scaled_eq_error hmodrm hp hmd hrm hidx hss] at hq
    cases hq

end Sys2Proof
end

section
/-! PROOFS. The views cover the instructions (`viewed`): every constructor is seen by one of them, and each says which use
of memory its instructions make. -/

namespace Sys2Proof.Claims

open Sys2Proof.Machine

/-- The view that sees an instruction. -/
inductive Viewed (i : Instr) (s : State) : Prop
  | logic (b : LogicView) (h : logicView i s = some b)
  | not (u : Use) (h : notView i s = some u)
  | bit (b : BitView) (h : bitView i s = some b)
  | scan (b : ScanView) (h : scanView i s = some b)
  | count (b : CountView) (h : countView i s = some b)
  | double (b : DoubleView) (h : doubleView i s = some b)
  | set (cc : Nat) (x : Place) (h : setView i s = some (cc, x))
  | jump (b : JumpView) (h : jumpView i = some b)
  | divide (b : DivideView) (h : divideView i s = some b)

/-- Every instruction is seen by a view. -/
theorem viewed (i : Instr) (s : State) : Viewed i s :=
  match i with
  | .orRm8R8 .. | .orRmvRv .. | .orR8Rm8 .. | .orRvRmv .. | .orAlImm8 .. | .orEaxImmv .. | .orRm8Imm8 ..
  | .orRmvImmv .. | .orRmvImm8sx .. | .andRm8R8 .. | .andRmvRv .. | .andR8Rm8 .. | .andRvRmv .. | .andAlImm8 ..
  | .andEaxImmv .. | .andRm8Imm8 .. | .andRmvImmv .. | .andRmvImm8sx .. | .xorRm8R8 .. | .xorRmvRv ..
  | .xorR8Rm8 .. | .xorRvRmv .. | .xorAlImm8 .. | .xorEaxImmv .. | .xorRm8Imm8 .. | .xorRmvImmv ..
  | .xorRmvImm8sx .. => .logic _ rfl
  | .notRm8 .. | .notRmv .. => .not _ rfl
  | .btRmvRv .. | .btRmvImm8 .. | .btsRmvRv .. | .btsRmvImm8 .. | .btrRmvRv .. | .btrRmvImm8 .. | .btcRmvRv ..
  | .btcRmvImm8 .. => .bit _ rfl
  | .bsfRvRmv .. | .bsrRvRmv .. => .scan _ rfl
  | .rolRm8One .. | .rolRmvOne .. | .rolRm8Cl .. | .rolRmvCl .. | .rolRm8Imm8 .. | .rolRmvImm8 .. | .rorRm8One ..
  | .rorRmvOne .. | .rorRm8Cl .. | .rorRmvCl .. | .rorRm8Imm8 .. | .rorRmvImm8 .. | .rclRm8One .. | .rclRmvOne ..
  | .rclRm8Cl .. | .rclRmvCl .. | .rclRm8Imm8 .. | .rclRmvImm8 .. | .rcrRm8One .. | .rcrRmvOne .. | .rcrRm8Cl ..
  | .rcrRmvCl .. | .rcrRm8Imm8 .. | .rcrRmvImm8 .. | .shlRm8One .. | .shlRmvOne .. | .shlRm8Cl .. | .shlRmvCl ..
  | .shlRm8Imm8 .. | .shlRmvImm8 .. | .shrRm8One .. | .shrRmvOne .. | .shrRm8Cl .. | .shrRmvCl .. | .shrRm8Imm8 ..
  | .shrRmvImm8 .. | .sarRm8One .. | .sarRmvOne .. | .sarRm8Cl .. | .sarRmvCl .. | .sarRm8Imm8 ..
  | .sarRmvImm8 .. => .count _ rfl
  | .shldRmvRvImm8 .. | .shldRmvRvCl .. | .shrdRmvRvImm8 .. | .shrdRmvRvCl .. => .double _ rfl
  | .seto .. | .setno .. | .setc .. | .setnc .. | .sete .. | .setne .. | .setbe .. | .setnbe .. | .sets ..
  | .setns .. | .setp .. | .setnp .. | .setl .. | .setnl .. | .setle .. | .setnle .. => .set _ _ rfl
  | .jcRel8 .. | .jcRelv .. | .jncRel8 .. | .jncRelv .. => .jump _ rfl
  | .idivRm8 .. | .idivRmv .. => .divide _ rfl

/-! ### The use of memory, by view -/

section UseOf

variable {i : Instr} {s : State}

theorem useOf_of_logicView {b : LogicView} (h : logicView i s = some b) : useOf i s = some b.use := by
  simp [useOf, h]

theorem useOf_of_notView {u : Use} (h : notView i s = some u) : useOf i s = some u := by
  unfold notView at h; split at h <;> cases h <;> rfl

theorem useOf_of_bitView {b : BitView} (h : bitView i s = some b) : useOf i s = some b.use := by
  unfold bitView at h; split at h <;> cases h <;> rfl

theorem useOf_of_scanView {b : ScanView} (h : scanView i s = some b) : useOf i s = some b.use := by
  unfold scanView at h; split at h <;> cases h <;> rfl

theorem useOf_of_countView {b : CountView} (h : countView i s = some b) : useOf i s = some b.use := by
  unfold countView at h; split at h <;> cases h <;> rfl

theorem useOf_of_doubleView {b : DoubleView} (h : doubleView i s = some b) : useOf i s = some b.use := by
  unfold doubleView at h; split at h <;> cases h <;> rfl

theorem useOf_of_setView {cc : Nat} {x : Place} (h : setView i s = some (cc, x)) : useOf i s = some (setUse x) := by
  unfold setView at h; split at h <;> cases h <;> rfl

theorem useOf_of_divideView {b : DivideView} (h : divideView i s = some b) : useOf i s = some b.use := by
  unfold divideView at h; split at h <;> cases h <;> rfl

/-- A jump has no operand in memory. -/
theorem useOf_of_jumpView {b : JumpView} (h : jumpView i = some b) : useOf i s = none := by
  unfold jumpView at h; split at h <;> cases h <;> rfl

end UseOf

/-! ### What the remaining views do: counts, jumps, divisions -/

/-- A rotate at every count begins with the checks of its use. -/
theorem rotate_eq_access (w : Nat) (g : BitVec w → Bool → BitVec w × Bool) (dst : Place) (c len : Nat) (s : State) :
    rotate w g dst c len s = access dst w true (decide (c ≠ 0)) s (.next
      (if c = 0 then s.finish s.flags 0 len
      else (dst.write (repeatBit g c (dst.read w s) s.flags.cf).1 s).finish
        (rotateFlags c (dst.read w s) (repeatBit g c (dst.read w s) s.flags.cf).1
          (repeatBit g c (dst.read w s) s.flags.cf).2 s) 1 len)) := by
  by_cases hc : c = 0
  · rw [rotate, if_pos hc, if_pos hc, decide_eq_false (not_not_intro hc)]
  · rw [rotate, if_neg hc, if_neg hc, decide_eq_true hc]

/-- A shift at every count begins with the checks of its use. -/
theorem shift_eq_access (w : Nat) (g : BitVec w → Bool → BitVec w × Bool) (cfFree : Bool) (dst : Place) (c len : Nat)
    (s : State) : shift w g cfFree dst c len s = access dst w true (decide (c ≠ 0)) s (.next
      (if c = 0 then s.finish s.flags 0 len
      else (dst.write (repeatBit g c (dst.read w s) s.flags.cf).1 s).finish
        (shiftFlags cfFree c (dst.read w s) (repeatBit g c (dst.read w s) s.flags.cf).1
          (repeatBit g c (dst.read w s) s.flags.cf).2 s) 3 len)) := by
  by_cases hc : c = 0
  · rw [shift, if_pos hc, if_pos hc, decide_eq_false (not_not_intro hc)]
  · rw [shift, if_neg hc, if_neg hc, decide_eq_true hc]

/-- The one-bit step of a shift or rotate. -/
def CountOp.bit {w : Nat} : CountOp → BitVec w → Bool → BitVec w × Bool
  | .rol => rolBit
  | .ror => rorBit
  | .rcl => rclBit
  | .rcr => rcrBit
  | .shl => shlBit
  | .shr => shrBit
  | .sar => sarBit

/-- The operation is a rotate. -/
def CountOp.isRotate : CountOp → Bool
  | .rol | .ror | .rcl | .rcr => true
  | _ => false

/-- The word a shift or rotate leaves, and the bit moved out last. -/
def CountView.moved (b : CountView) (s : State) : BitVec b.w × Bool :=
  repeatBit b.op.bit b.c (b.dst.read b.w s) s.flags.cf

/-- Shifts other than SAR leave CF undefined from the width on. -/
def CountView.cfFree (b : CountView) : Bool := decide (b.op ≠ .sar) && decide (b.w ≤ b.c)

/-- The flags after a shift or rotate by a count that is not zero. -/
def CountView.flags (b : CountView) (s : State) : Flags :=
  if b.op.isRotate then rotateFlags b.c (b.dst.read b.w s) (b.moved s).1 (b.moved s).2 s
  else shiftFlags b.cfFree b.c (b.dst.read b.w s) (b.moved s).1 (b.moved s).2 s

/-- The state after a shift or rotate, of `len` bytes, by any count. -/
def CountView.after (b : CountView) (len : Nat) (s : State) : State :=
  if b.c = 0 then s.finish s.flags 0 len
  else (b.dst.write (b.moved s).1 s).finish (b.flags s) (if b.op.isRotate then 1 else 3) len

/-- All 42 forms: the checks of the operand, which is written unless the count is zero, then the effect. -/
theorem exec_of_countView_eq_guard {i : Instr} {s : State} {b : CountView} (h : countView i s = some b) :
    exec i s = b.use.guard s (.next (b.after i.length s)) := by
  rw [exec_of_countView h]
  obtain ⟨op, w, dst, c⟩ := b
  cases op with
  | rol | ror | rcl | rcr => exact rotate_eq_access ..
  | shl | shr | sar => exact shift_eq_access ..

/-- All four jumps: taken when CF is the one asked for. -/
theorem exec_of_jumpView {i : Instr} {b : JumpView} (h : jumpView i = some b) (s : State) :
    exec i s = jumpIf (s.flags.cf == b.onCarry) b.v b.rel i.length s := by
  have onCarry : (s.flags.cf == true) = Machine.cond 2 s.flags := beq_true _
  have onNoCarry : (s.flags.cf == false) = Machine.cond 3 s.flags := beq_false _
  unfold jumpView at h
  split at h <;> cases h <;> simp only [onCarry, onNoCarry] <;> rfl

/-- The quotient of IDIV, rounded toward zero. -/
def DivideView.quotient (b : DivideView) (s : State) : Int := (Machine.dividend b.w s.regs).tdiv (b.divisor s)

/-- IDIV raises DivideError: a zero divisor, a quotient that does not fit, or a drawn bit at the least one (log 16). -/
def DivideView.faults (b : DivideView) (s : State) : Prop :=
  b.divisor s = 0 ∨ (b.quotient s < -((2 ^ (b.w - 1) : Nat) : Int) ∨ ((2 ^ (b.w - 1) : Nat) : Int) - 1 < b.quotient s) ∨
    (b.quotient s = -((2 ^ (b.w - 1) : Nat) : Int) ∧ s.undef 0 = true)

/-- The registers after IDIV. -/
def DivideView.regs (b : DivideView) (s : State) : Regs :=
  putQuotient b.w (b.quotient s) (Machine.dividend b.w s.regs - b.quotient s * b.divisor s) s.regs

/-- Both forms of IDIV: the check of the divisor's read, then DivideError or the quotient and remainder. -/
theorem exec_of_divideView {i : Instr} {s : State} {b : DivideView} (h : divideView i s = some b) :
    (b.faults s → exec i s = b.use.guard s (.fault .divideError)) ∧
      (¬ b.faults s →
        exec i s = b.use.guard s (.next (State.finish { s with regs := b.regs s } (drawnFlags s) 7 i.length))) := by
  have divides : exec i s = divide b.w b.src i.length s := by
    unfold divideView at h; split at h <;> cases h <;> rfl
  have unfolded : divide b.w b.src i.length s = b.use.guard s (if b.divisor s = 0 then .fault .divideError
      else if b.quotient s < -((2 ^ (b.w - 1) : Nat) : Int) ∨ ((2 ^ (b.w - 1) : Nat) : Int) - 1 < b.quotient s then
        .fault .divideError
      else if b.quotient s = -((2 ^ (b.w - 1) : Nat) : Int) ∧ s.undef 0 = true then .fault .divideError
      else .next (State.finish { s with regs := b.regs s } (drawnFlags s) 7 i.length)) := rfl
  rw [divides, unfolded]
  constructor
  · rintro (hzero | hrange | hleast)
    · rw [if_pos hzero]
    · rw [if_pos hrange, ite_self]
    · rw [if_pos hleast, ite_self, ite_self]
  · intro hno
    obtain ⟨hzero, hrange, hleast⟩ := not_or.mp hno |>.imp_right not_or.mp
    rw [if_neg hzero, if_neg hrange, if_neg hleast]

/-! ### Checks first (20_memory.md R51, R63, R65) -/

/-- Every instruction with an operand that may be in memory begins with the checks of its use. -/
theorem exists_exec_eq_guard {i : Instr} {s : State} {u : Use} (h : useOf i s = some u) :
    ∃ k, exec i s = u.guard s k := by
  have of_eq : ∀ {u'} {k : Out}, useOf i s = some u' → exec i s = u'.guard s k → ∃ k, exec i s = u.guard s k := by
    intro u' k hu' hk
    obtain rfl := Option.some.inj (h.symm.trans hu')
    exact ⟨k, hk⟩
  cases viewed i s with
  | logic b hb => exact of_eq (useOf_of_logicView hb) (exec_of_logicView hb)
  | not u' hb => exact of_eq (useOf_of_notView hb) (exec_of_notView hb)
  | bit b hb => exact of_eq (useOf_of_bitView hb) (exec_of_bitView hb)
  | scan b hb => exact of_eq (useOf_of_scanView hb) (exec_of_scanView hb)
  | count b hb => exact of_eq (useOf_of_countView hb) (exec_of_countView_eq_guard hb)
  | double b hb => exact of_eq (useOf_of_doubleView hb) (exec_of_doubleView hb)
  | set cc x hb => exact of_eq (useOf_of_setView hb) (exec_of_setView hb)
  | jump b hb => rw [useOf_of_jumpView hb] at h; cases h
  | divide b hb =>
    obtain ⟨hfault, hnext⟩ := exec_of_divideView hb
    by_cases hf : b.faults s
    · exact of_eq (useOf_of_divideView hb) (hfault hf)
    · exact of_eq (useOf_of_divideView hb) (hnext hf)

/-- Settles O23: the checks of the use come first. -/
theorem unadmittedAccessFaults : Obligations.UnadmittedAccessFaults := by
  intro i s u hu
  obtain ⟨k, hk⟩ := exists_exec_eq_guard hu
  exact memFaults_of_exec_eq_guard hk

/-- Settles O24: the first of the checks is the one of the text. -/
theorem textWriteRefused : Obligations.TextWriteRefused := by
  intro i s u a hu hplace hwr htext
  obtain ⟨k, hk⟩ := exists_exec_eq_guard hu
  rw [hk, Use.guard, hplace, access, hwr, htext]
  rfl

end Sys2Proof.Claims
end

section
/-! PROOFS. What every instruction keeps to (10_state.md R24, R25, R28, R33, 20_memory.md R51, R53). `ends_of_exec` says
once, from the views, everything that an instruction that goes on can have done: it stored nothing, or its one operand in
memory, or some of its destination registers, and then it ended or jumped. The frames follow from it. -/

namespace Sys2Proof.Machine

/-- The register that an operand is part of, if it is one. -/
def Place.regs : Place → List Reg
  | .byteReg r => [Reg8.whole r]
  | .reg r => [r]
  | .mem _ => []

@[simp] theorem Place.regs_byteReg (r : Reg8) : (Place.byteReg r).regs = [Reg8.whole r] := rfl
@[simp] theorem Place.regs_reg (r : Reg) : (Place.reg r).regs = [r] := rfl
@[simp] theorem Place.regs_mem (a : Dword) : (Place.mem a).regs = [] := rfl

/-- Writing a register operand changes no register but the operand's. -/
theorem Place.get_write_regs (x : Place) {w : Nat} (v : BitVec w) (s : State) {q : Reg} (hq : q ∉ x.regs) :
    (x.write v s).regs.get q = s.regs.get q := by
  cases x with
  | mem a => rfl
  | byteReg r => exact Regs.get_set8_other _ _ (by simpa using hq)
  | reg r => exact Regs.get_setW_other _ _ (by simpa using hq)

/-- Writing a register operand changes registers alone. -/
theorem Place.write_eq_of_not_mem {x : Place} (hx : ∀ a, x ≠ .mem a) {w : Nat} (v : BitVec w) (s : State) :
    x.write v s = { s with regs := (x.write v s).regs } := by
  cases x with
  | mem a => exact absurd rfl (hx a)
  | byteReg r | reg r => rfl

/-- The checks of a use let an effect through exactly when both accesses are admitted. -/
theorem Use.guard_eq_next {u : Use} {s t : State} {k : Out} : u.guard s k = .next t ↔ u.ready s ∧ k = .next t :=
  access_eq_next.trans and_assoc.symm

end Sys2Proof.Machine

namespace Sys2Proof.Claims

open Sys2Proof.Machine

@[simp] theorem place8_regs (p : Marks) (x : Rm8) (s : State) : (place8 p x s).regs = rm8Regs x := by cases x <;> rfl

@[simp] theorem placeV_regs (p : Marks) (x : Rmv) (s : State) : (placeV p x s).regs = rmvRegs x := by cases x <;> rfl

/-! ### What an instruction may store -/

/-- What the instruction `i` may have stored, from `s`: nothing; its one operand in memory, where it writes that;
destination registers. -/
inductive Stores (i : Instr) (s : State) : State → Prop
  | nothing : Stores i s s
  | memory {w : Nat} {rd : Bool} (a : Dword) (v : BitVec w) (hw : w ∈ (Place.mem a).widths)
    (h : useOf i s = some ⟨.mem a, w, rd, true⟩) : Stores i s (Place.write (.mem a) v s)
  | registers (g : Regs) (h : ∀ q, q ∉ destRegs i → g.get q = s.regs.get q) : Stores i s { s with regs := g }

/-- What the instruction `i` may have done, from `s`, when it goes on: it stored, wrote flags, drew values and moved EIP
past itself; or it is a jump and only set EIP. -/
inductive Ends (i : Instr) (s : State) : State → Prop
  | past {d : State} (f : Flags) (drawn : Nat) (h : Stores i s d) : Ends i s (d.finish f drawn i.length)
  | jump (b : JumpView) (e : Dword) (h : jumpView i = some b) : Ends i s { s with eip := e }

/-- The write of an operand is one that `i` may make when its register is a destination of `i`, or `i` uses it so. -/
theorem Stores.write {i : Instr} {s : State} {x : Place} {w : Nat} (hw : w ∈ x.widths) (v : BitVec w)
    (hregs : x.regs ⊆ destRegs i) (hmem : ∀ a, x = .mem a → ∃ rd, useOf i s = some ⟨.mem a, w, rd, true⟩) :
    Stores i s (x.write v s) := by
  by_cases hx : ∃ a, x = .mem a
  · obtain ⟨a, rfl⟩ := hx
    obtain ⟨rd, huse⟩ := hmem a rfl
    exact .memory a v hw huse
  · rw [Place.write_eq_of_not_mem (not_exists.mp hx) v s]
    exact .registers _ fun q hq => Place.get_write_regs x v s (mt (@hregs q) hq)

/-- The write of the operand that `i` uses is one that it may make. -/
theorem Stores.use {i : Instr} {s : State} {u : Use} (huse : useOf i s = some u) (hwr : u.wr = true)
    (hw : u.w ∈ u.place.widths) (hregs : u.place.regs ⊆ destRegs i) (v : BitVec u.w) :
    Stores i s (u.place.write v s) := by
  obtain ⟨x, w, rd, wr⟩ := u
  subst hwr
  exact .write hw v hregs fun _ hx => ⟨rd, hx ▸ huse⟩

section Destinations

variable {i : Instr} {s : State}

/-- AND, OR and XOR write a destination register, or their one operand in memory. -/
theorem stores_of_logicView {b : LogicView} (h : logicView i s = some b) (v : BitVec b.w) :
    Stores i s (b.dst.write v s) := by
  have dst : b.dst.regs ⊆ destRegs i ∧ ∀ a, b.dst = .mem a → b.use = ⟨.mem a, b.w, true, true⟩ := by
    unfold logicView at h
    split at h <;> cases h <;> simp [destRegs, Reg8.whole]
  obtain ⟨hregs, hmem⟩ := dst
  exact .write (mem_widths_of_logicView h) v hregs fun a ha =>
    ⟨true, (useOf_of_logicView h).trans (congrArg some (hmem a ha))⟩

theorem regs_subset_of_notView {u : Use} (h : notView i s = some u) : u.place.regs ⊆ destRegs i := by
  unfold notView at h
  split at h <;> cases h <;> simp [destRegs]

theorem wr_of_notView {u : Use} (h : notView i s = some u) : u.wr = true := by
  unfold notView at h
  split at h <;> cases h <;> rfl

theorem regs_subset_of_bitView {b : BitView} (h : bitView i s = some b) (hwr : b.op.writes = true) :
    b.unit.regs ⊆ destRegs i := by
  have unit_regs : b.unit.regs = b.base.regs := by
    unfold BitView.unit
    split
    · next hbase _ => rw [hbase]; rfl
    · rfl
  rw [unit_regs]
  unfold bitView at h
  split at h <;> cases h <;> simp_all [destRegs, BitOp.writes]

theorem dst_mem_of_scanView {b : ScanView} (h : scanView i s = some b) : b.dst ∈ destRegs i := by
  unfold scanView at h
  split at h <;> cases h <;> simp [destRegs]

theorem regs_subset_of_countView {b : CountView} (h : countView i s = some b) : b.dst.regs ⊆ destRegs i := by
  unfold countView at h
  split at h <;> cases h <;> simp [destRegs]

theorem regs_subset_of_doubleView {b : DoubleView} (h : doubleView i s = some b) : b.dst.regs ⊆ destRegs i := by
  unfold doubleView at h
  split at h <;> cases h <;> simp [destRegs]

theorem regs_subset_of_setView {cc : Nat} {x : Place} (h : setView i s = some (cc, x)) : x.regs ⊆ destRegs i := by
  unfold setView at h
  split at h <;> cases h <;> simp [destRegs]

/-- IDIV changes no register but its destinations. -/
theorem get_regs_of_divideView {b : DivideView} (h : divideView i s = some b) {q : Reg} (hq : q ∉ destRegs i) :
    (b.regs s).get q = s.regs.get q := by
  unfold divideView at h
  split at h <;> cases h
  case h_1 =>
    have hq : q ≠ .eax := by simpa [destRegs] using hq
    exact (Regs.get_set8_other (r := .ah) _ _ hq).trans (Regs.get_set8_other (r := .al) _ _ hq)
  case h_2 p v src =>
    obtain ⟨ha, hd⟩ : q ≠ .eax ∧ q ≠ .edx := by simpa [destRegs] using hq
    have not_byte : v.bits ≠ 8 := by cases v <;> decide
    rw [DivideView.regs, putQuotient, if_neg not_byte]
    exact (Regs.get_setW_other _ _ hd).trans (Regs.get_setW_other _ _ ha)

/-- Shifts and rotates store their operand, nothing at count zero. -/
theorem ends_after_of_countView {b : CountView} (h : countView i s = some b) : Ends i s (b.after i.length s) := by
  rw [CountView.after]
  split
  · exact .past _ _ .nothing
  · next hc =>
    exact .past _ _ (.use (useOf_of_countView h) (decide_eq_true hc) (mem_widths_of_countView h)
      (regs_subset_of_countView h) _)

/-- Double shifts store their operand, nothing at count zero. -/
theorem ends_after_of_doubleView {b : DoubleView} (h : doubleView i s = some b) : Ends i s (b.after i.length s) := by
  rw [DoubleView.after]
  split
  · exact .past _ _ .nothing
  · next hc =>
    have stores := Stores.use (useOf_of_doubleView h) (decide_eq_true hc) (mem_widths_of_doubleView h)
      (regs_subset_of_doubleView h)
    split <;> exact .past _ _ (stores _)

/-- The bit tests store their unit, BT nothing. -/
theorem stores_of_bitView {b : BitView} (h : bitView i s = some b) : Stores i s (b.op.store b.w b.unit b.index s) := by
  rw [BitOp.store]
  split
  · next hwr =>
    have hw : b.w ∈ b.unit.widths := b.widths_unit ▸ mem_widths_of_bitView h
    exact .use (useOf_of_bitView h) hwr hw (regs_subset_of_bitView h hwr) _
  · exact .nothing

end Destinations

/-- An instruction that goes on made admitted accesses only, stored what it may store, and ended or jumped. -/
theorem ends_of_exec {i : Instr} {s t : State} (h : exec i s = .next t) :
    (∀ u, useOf i s = some u → u.ready s) ∧ Ends i s t := by
  have of_guard : ∀ {u : Use} {t' : State}, useOf i s = some u → exec i s = u.guard s (.next t') → Ends i s t' →
      (∀ u, useOf i s = some u → u.ready s) ∧ Ends i s t := by
    intro u t' huse hexec hends
    obtain ⟨hready, ht⟩ := Use.guard_eq_next.mp (hexec.symm.trans h)
    cases ht
    exact ⟨fun u' hu' => Option.some.inj (huse.symm.trans hu') ▸ hready, hends⟩
  cases viewed i s with
  | logic b hb => exact of_guard (useOf_of_logicView hb) (exec_of_logicView hb) (.past _ _ (stores_of_logicView hb _))
  | not u hb =>
    refine of_guard (useOf_of_notView hb) (exec_of_notView hb) (.past _ _ ?_)
    exact .use (useOf_of_notView hb) (wr_of_notView hb) (mem_widths_of_notView hb) (regs_subset_of_notView hb) _
  | bit b hb => exact of_guard (useOf_of_bitView hb) (exec_of_bitView hb) (.past _ _ (stores_of_bitView hb))
  | scan b hb =>
    refine of_guard (useOf_of_scanView hb) (exec_of_scanView hb)
      (.past _ _ (.registers _ fun q hq => ?_))
    exact Place.get_write_regs (.reg b.dst) _ s 
      (by simpa using (ne_of_mem_of_not_mem (dst_mem_of_scanView hb) hq).symm)
  | count b hb => exact of_guard (useOf_of_countView hb) (exec_of_countView_eq_guard hb) (ends_after_of_countView hb)
  | double b hb => exact of_guard (useOf_of_doubleView hb) (exec_of_doubleView hb) (ends_after_of_doubleView hb)
  | set cc x hb =>
    refine of_guard (useOf_of_setView hb) (exec_of_setView hb) (.past _ _ ?_)
    exact .use (useOf_of_setView hb) rfl (eight_mem_widths_of_setView hb) (regs_subset_of_setView hb) _
  | jump b hb =>
    refine ⟨fun u hu => ?_, ?_⟩
    · rw [useOf_of_jumpView hb] at hu; cases hu
    · rw [exec_of_jumpView hb] at h
      obtain ⟨-, rfl⟩ | ⟨-, -, -, rfl⟩ := jumpIf_next h
      · exact .past _ _ .nothing
      · exact .jump b _ hb
  | divide b hb =>
    obtain ⟨hfault, hnext⟩ := exec_of_divideView hb
    by_cases hf : b.faults s
    · rw [hfault hf] at h
      obtain ⟨-, ht⟩ := Use.guard_eq_next.mp h
      cases ht
    · exact of_guard (useOf_of_divideView hb) (hnext hf)
        (.past _ _ (.registers _ fun q hq => get_regs_of_divideView hb hq))

/-! ### The frames -/

section Frames

variable {i : Instr} {s t : State}

theorem Stores.params (h : Stores i s t) : t.params = s.params := by cases h <;> rfl
theorem Stores.draws (h : Stores i s t) : t.draws = s.draws := by cases h <;> rfl
theorem Stores.eip (h : Stores i s t) : t.eip = s.eip := by cases h <;> rfl

theorem Stores.get_regs (h : Stores i s t) {q : Reg} (hq : q ∉ destRegs i) : t.regs.get q = s.regs.get q := by
  cases h with
  | nothing => rfl
  | memory a v hw huse => rfl
  | registers g hg => exact hg q hq

/-- The canonical form of memory stays. -/
theorem Stores.wf (h : Stores i s t) (hwf : Memory.wf s.mem = true) : Memory.wf t.mem = true := by
  cases h with
  | nothing => exact hwf
  | memory a v hw huse => exact Place.wf_write hwf _ v
  | registers g hg => exact hwf

/-- Memory stays outside the operand that the instruction writes. -/
theorem Stores.byteAt (h : Stores i s t) (hwf : Memory.wf s.mem = true) {b : Dword}
    (hb : ∀ u, useOf i s = some u → u.wr = true → ¬ u.place.covers u.w b) : t.byteAt b = s.byteAt b := by
  cases h with
  | nothing => rfl
  | registers g hg => rfl
  | memory a v hw huse =>
    obtain ⟨-, bytes, -⟩ := Place.writesOnly_write hwf (.mem a) hw v
    exact bytes b (hb _ huse rfl)

end Frames

variable {i : Instr} {s t : State}

theorem Ends.params (h : Ends i s t) : t.params = s.params := by
  cases h with
  | past f drawn hd => exact hd.params
  | jump b e hb => rfl

/-- The end of an instruction keeps what its store leaves of registers and memory. -/
theorem Ends.exists_stores (h : Ends i s t) : ∃ d, Stores i s d ∧ SameData d t := by
  cases h with
  | past f drawn hd => exact ⟨_, hd, rfl, rfl⟩
  | jump b e hb => exact ⟨s, .nothing, rfl, rfl⟩

/-- Settles O25: the checks passed, and memory is as the store left it. -/
theorem memoryFrame : Obligations.MemoryFrame := by
  intro i s t hwf h
  obtain ⟨hready, hends⟩ := ends_of_exec h
  obtain ⟨d, hd, -, hmem⟩ := hends.exists_stores
  refine ⟨hready, fun b hb => ?_⟩
  rw [State.byteAt, hmem]
  exact hd.byteAt hwf hb

/-- Every instruction keeps memory in canonical form. -/
theorem wf_of_exec (h : exec i s = .next t) (hwf : Memory.wf s.mem = true) : Memory.wf t.mem = true := by
  obtain ⟨d, hd, -, hmem⟩ := (ends_of_exec h).2.exists_stores
  exact hmem ▸ hd.wf hwf

/-- Settles O26: the registers are as the store left them. -/
theorem registerFrame : Obligations.RegisterFrame := by
  intro i s t q h hq
  obtain ⟨d, hd, hregs, -⟩ := (ends_of_exec h).2.exists_stores
  rw [hregs]
  exact hd.get_regs hq

/-- Settles O28: the end of an instruction adds its draws and moves EIP past it; a jump draws nothing. -/
theorem eipAdvances : Obligations.EipAdvances := by
  intro i s t h
  have hends := (ends_of_exec h).2
  refine ⟨hends.params, ?_⟩
  cases hends with
  | past f drawn hd => exact ⟨hd.draws ▸ Nat.le_add_right _ _, fun _ => by simp [hd.eip]⟩
  | jump b e hb => exact ⟨le_rfl, fun hnone => by rw [hnone] at hb; cases hb⟩

/-! ### Flags (10_state.md R28) -/

/-- What an instruction goes on to is the effect behind the checks of its use. -/
theorem eq_of_exec_eq_guard {u : Use} {t' : State} (hexec : exec i s = u.guard s (.next t'))
    (h : exec i s = .next t) : t = t' := by
  obtain ⟨-, ht⟩ := Use.guard_eq_next.mp (hexec.symm.trans h)
  cases ht
  rfl

/-- A jump leaves the flags. -/
theorem flags_of_jumpView {b : JumpView} (hb : jumpView i = some b) (h : exec i s = .next t) : t.flags = s.flags := by
  rw [exec_of_jumpView hb] at h
  obtain ⟨-, rfl⟩ | ⟨-, -, -, rfl⟩ := jumpIf_next h <;> rfl

/-- A rotate changes at most CF and OF. -/
theorem CountView.after_flags_of_isRotate {b : CountView} (hb : b.op.isRotate = true) (len : Nat) (s : State) :
    (b.after len s).flags.sf = s.flags.sf ∧ (b.after len s).flags.zf = s.flags.zf ∧
      (b.after len s).flags.af = s.flags.af ∧ (b.after len s).flags.pf = s.flags.pf := by
  rw [CountView.after, CountView.flags, if_pos hb]
  split <;> exact ⟨rfl, rfl, rfl, rfl⟩

/-- Settles O27: the effect of each view, which keeps the flags, or is the bare end of an instruction at count zero, or is
that of a rotate. -/
theorem flagFrame : Obligations.FlagFrame := by
  intro i s t h
  refine ⟨?plain, fun b hb hc => ?count, fun b hb hc => ?double, fun b hb hop => ?rotate⟩
  case plain =>
    rintro (hnot | hset | hjump)
    · obtain ⟨u, hu⟩ := Option.isSome_iff_exists.mp hnot
      rw [eq_of_exec_eq_guard (exec_of_notView hu) h, State.finish_flags]
    · obtain ⟨⟨cc, x⟩, hx⟩ := Option.isSome_iff_exists.mp hset
      rw [eq_of_exec_eq_guard (exec_of_setView hx) h, State.finish_flags]
    · obtain ⟨b, hb⟩ := Option.isSome_iff_exists.mp hjump
      exact flags_of_jumpView hb h
  case count =>
    rw [eq_of_exec_eq_guard (exec_of_countView_eq_guard hb) h, CountView.after, if_pos hc, State.finish_flags]
  case double =>
    rw [eq_of_exec_eq_guard (exec_of_doubleView hb) h, DoubleView.after, if_pos hc, State.finish_flags]
  case rotate =>
    have isRotate : ∀ op ∈ [CountOp.rol, .ror, .rcl, .rcr], op.isRotate = true := by decide
    rw [eq_of_exec_eq_guard (exec_of_countView_eq_guard hb) h]
    exact b.after_flags_of_isRotate (isRotate _ hop) _ s

end Sys2Proof.Claims
end

section
/-! PROOFS. AF is never read (10_state.md R28): with AF changed, the views, the operands and their checks are the same, and
the flags an instruction leaves differ in AF at most. -/

namespace Sys2Proof.Machine

/-- The flags with AF as given. -/
def Flags.withAf (b : Bool) (f : Flags) : Flags := { f with af := b }

/-- The state with AF as given. -/
def State.withAf (b : Bool) (s : State) : State := { s with flags := s.flags.withAf b }

section WithAf

variable (b : Bool) (s : State) {w : Nat} (x : Place)

@[simp] theorem State.withAf_flags : (s.withAf b).flags = s.flags.withAf b := rfl
@[simp] theorem State.withAf_eip : (s.withAf b).eip = s.eip := rfl
@[simp] theorem Place.read_withAf : x.read w (s.withAf b) = x.read w s := rfl
@[simp] theorem Place.write_withAf (v : BitVec w) : x.write v (s.withAf b) = (x.write v s).withAf b := by
  cases x <;> rfl

/-- No condition reads AF (46_setcc_and_referenced.md R222). -/
@[simp] theorem cond_withAf (cc : Nat) (f : Flags) : Machine.cond cc (f.withAf b) = Machine.cond cc f := rfl

end WithAf

end Sys2Proof.Machine

namespace Sys2Proof.Claims

open Sys2Proof.Machine

section Views

variable (b : Bool) (i : Instr) (s : State)

@[simp] theorem logicView_withAf : logicView i (s.withAf b) = logicView i s := by cases i <;> rfl
@[simp] theorem notView_withAf : notView i (s.withAf b) = notView i s := by cases i <;> rfl
@[simp] theorem bitView_withAf : bitView i (s.withAf b) = bitView i s := by cases i <;> rfl
@[simp] theorem scanView_withAf : scanView i (s.withAf b) = scanView i s := by cases i <;> rfl
@[simp] theorem countView_withAf : countView i (s.withAf b) = countView i s := by cases i <;> rfl
@[simp] theorem doubleView_withAf : doubleView i (s.withAf b) = doubleView i s := by cases i <;> rfl
@[simp] theorem setView_withAf : setView i (s.withAf b) = setView i s := by cases i <;> rfl
@[simp] theorem divideView_withAf : divideView i (s.withAf b) = divideView i s := by cases i <;> rfl

end Views

/-- The state `t'` is `t` but for AF. -/
def SameButAf (t t' : State) : Prop := ∃ c, t' = t.withAf c

theorem SameButAf.rfl {t : State} : SameButAf t t := ⟨t.flags.af, Eq.refl t⟩

theorem SameButAf.withAf (b : Bool) (t : State) : SameButAf t (t.withAf b) := ⟨b, Eq.refl _⟩

variable (b : Bool) {i : Instr} {s : State}

theorem CountView.after_withAf (v : CountView) (len : Nat) (s : State) :
    SameButAf (v.after len s) (v.after len (s.withAf b)) := by
  simp only [CountView.after, CountView.flags]
  by_cases hc : v.c = 0
  · rw [if_pos hc, if_pos hc]; exact .withAf b _
  rw [if_neg hc, if_neg hc, Place.write_withAf]
  by_cases hop : v.op.isRotate = true
  · simp only [if_pos hop]; exact .withAf b _
  · simp only [if_neg hop]; exact .rfl

theorem DoubleView.after_withAf (v : DoubleView) (len : Nat) (s : State) :
    SameButAf (v.after len s) (v.after len (s.withAf b)) := by
  rw [DoubleView.after, DoubleView.after]
  by_cases hc : v.c = 0
  · rw [if_pos hc, if_pos hc]; exact .withAf b _
  rw [if_neg hc, if_neg hc, Place.write_withAf, Place.write_withAf]
  exact .rfl

theorem condTable_withAf {cc : Nat} (hcc : cc < 16) (f : Flags) : condTable cc (f.withAf b) = condTable cc f := by
  rw [← cond_eq_condTable hcc, ← cond_eq_condTable hcc, cond_withAf]

theorem BitOp.store_withAf (op : BitOp) (w : Nat) (x : Place) (k : Nat) (s : State) :
    op.store w x k (s.withAf b) = (op.store w x k s).withAf b := by
  rw [BitOp.store, BitOp.store, Place.write_withAf, apply_ite (State.withAf b), Place.read_withAf]

/-- What a jump goes on to differs in AF alone when AF is changed before it. -/
theorem jumpIf_withAf {taken : Bool} {v : OpSize} {rel : Int} {len : Nat} {s t : State}
    (h : jumpIf taken v rel len s = .next t) : jumpIf taken v rel len (s.withAf b) = .next (t.withAf b) := by
  cases taken with
  | false => cases h; rfl
  | true =>
    simp only [jumpIf, if_true] at h ⊢
    split at h
    · cases h
    · next hin => cases h; rw [State.withAf_eip, if_neg hin]; rfl

/-- An instruction that goes on goes on with AF changed before it, to a state that differs in AF alone. -/
theorem exec_withAf {t : State} (h : exec i s = .next t) :
    ∃ t', exec i (s.withAf b) = .next t' ∧ SameButAf t t' := by
  have of_guard : ∀ {u : Use} {d d' : State}, exec i s = u.guard s (.next d) →
      exec i (s.withAf b) = u.guard (s.withAf b) (.next d') → SameButAf d d' →
      ∃ t', exec i (s.withAf b) = .next t' ∧ SameButAf t t' := by
    intro u d d' hd hd' hsame
    obtain ⟨hready, ht⟩ := Use.guard_eq_next.mp (hd.symm.trans h)
    cases ht
    exact ⟨d', hd'.trans (Use.guard_eq_next.mpr ⟨hready, rfl⟩), hsame⟩
  cases viewed i s with
  | logic v hv =>
    refine of_guard (exec_of_logicView hv) (exec_of_logicView ((logicView_withAf b i s).trans hv)) ?_
    rw [Place.write_withAf]; exact .rfl
  | not u hu =>
    refine of_guard (exec_of_notView hu) (exec_of_notView ((notView_withAf b i s).trans hu)) ?_
    rw [Place.write_withAf]; exact .withAf b _
  | bit v hv =>
    refine of_guard (exec_of_bitView hv) (exec_of_bitView ((bitView_withAf b i s).trans hv)) ?_
    rw [BitOp.store_withAf]; exact .rfl
  | scan v hv => exact of_guard (exec_of_scanView hv) (exec_of_scanView ((scanView_withAf b i s).trans hv)) .rfl
  | count v hv =>
    exact of_guard (exec_of_countView_eq_guard hv) (exec_of_countView_eq_guard ((countView_withAf b i s).trans hv))
      (v.after_withAf b _ s)
  | double v hv =>
    exact of_guard (exec_of_doubleView hv) (exec_of_doubleView ((doubleView_withAf b i s).trans hv))
      (v.after_withAf b _ s)
  | set cc x hx =>
    refine of_guard (exec_of_setView hx) (exec_of_setView ((setView_withAf b i s).trans hx)) ?_
    rw [State.withAf_flags, condTable_withAf b (lt_of_setView hx), Place.write_withAf]; exact .withAf b _
  | jump v hv =>
    rw [exec_of_jumpView hv] at h ⊢
    exact ⟨_, jumpIf_withAf b h, .withAf b _⟩
  | divide v hv =>
    obtain ⟨hfault, hnext⟩ := exec_of_divideView hv
    obtain ⟨-, hnext'⟩ := exec_of_divideView ((divideView_withAf b i s).trans hv)
    by_cases hf : v.faults s
    · rw [hfault hf] at h
      obtain ⟨-, ht⟩ := Use.guard_eq_next.mp h
      cases ht
    · exact of_guard (hnext hf) (hnext' hf) .rfl

/-- Settles O29: the two runs end alike but for AF. -/
theorem auxiliaryFlagNeverRead : Obligations.AuxiliaryFlagNeverRead := by
  intro i s t b h
  obtain ⟨t', ht', c, rfl⟩ := exec_withAf b h
  exact ⟨_, ht', rfl, rfl, rfl, rfl⟩

end Sys2Proof.Claims
end

section
/-! PROOFS. An accepted LOCK has no effect (20_memory.md R54, 30_encoding.md R84): the rows that accept it are seen by the
views of AND, OR and XOR, of NOT, and of the bit tests, and these views do not see the mark. -/

namespace Sys2Proof.Claims

open Sys2Proof.Machine

section Rows

variable {i j : Instr} {lock : Bool} (h : withLock lock i = some j) (s : State)
include h

theorem logicView_of_withLock : logicView j s = logicView i s := by
  unfold withLock at h; split at h <;> cases h <;> rfl

theorem notView_of_withLock : notView j s = notView i s := by
  unfold withLock at h; split at h <;> cases h <;> rfl

theorem bitView_of_withLock : bitView j s = bitView i s := by
  unfold withLock at h; split at h <;> cases h <;> rfl

/-- A row that accepts LOCK is one of AND, OR and XOR, of NOT, or of the bit tests. -/
theorem view_of_withLock :
    (logicView i s).isSome = true ∨ (notView i s).isSome = true ∨ (bitView i s).isSome = true := by
  unfold withLock at h; split at h <;> cases h <;> simp [logicView, notView, bitView]

/-- Setting the mark changes nothing else of the parts. -/
theorem parts_of_withLock : j.parts = { i.parts with marks := { i.parts.marks with lock := lock } } := by
  unfold withLock at h; split at h <;> cases h <;> rfl

end Rows

/-- With its LOCK mark the instruction is one byte longer. -/
theorem length_of_withLock {i j : Instr} (hi : withLock true i = some i) (hj : withLock false i = some j) :
    i.length = j.length + 1 := by
  have lockByte : ∀ q : Parts, Parts.bytes { q with marks := { q.marks with lock := true } } =
      0xF0 :: Parts.bytes { q with marks := { q.marks with lock := false } } := fun _ => rfl
  have encoded : encode i = 0xF0 :: encode j := by
    rw [encode, encode, parts_of_withLock hi, parts_of_withLock hj]
    exact lockByte i.parts
  exact congrArg List.length encoded

/-- Settles O8: both run the same effect behind the same checks, and the end of it moves EIP by the length. -/
theorem lockHasNoEffect : Obligations.LockHasNoEffect := by
  intro i j s t hi hj h
  have of_guard : ∀ {u : Use} {d : State} {f : Flags} {n : Nat}, exec i s = u.guard s (.next (d.finish f n i.length)) →
      exec j s = u.guard s (.next (d.finish f n j.length)) → exec i s = .next { t with eip := t.eip + 1 } := by
    intro u d f n hexeci hexecj
    obtain ⟨hready, ht⟩ := Use.guard_eq_next.mp (hexecj.symm.trans h)
    cases ht
    rw [hexeci, Use.guard_of_ready hready, length_of_withLock hi hj, State.finish, State.finish]
    simp [BitVec.ofNat_add, BitVec.add_assoc]
  rcases view_of_withLock hj s with hview | hview | hview <;> obtain ⟨b, hb⟩ := Option.isSome_iff_exists.mp hview
  · exact of_guard (exec_of_logicView hb) (exec_of_logicView ((logicView_of_withLock hj s).trans hb))
  · exact of_guard (exec_of_notView hb) (exec_of_notView ((notView_of_withLock hj s).trans hb))
  · exact of_guard (exec_of_bitView hb) (exec_of_bitView ((bitView_of_withLock hj s).trans hb))

end Sys2Proof.Claims
end

section
/-! PROOFS. The bytes of the program text that a fetch reads (20_memory.md R51, 70_reset_and_hazards.md R276): they are the
bytes of code as far as fetches are admitted, they end inside the text, and an instruction that goes on leaves them. -/

namespace Sys2Proof.Machine

/-- A byte of code can be fetched: it is in the text, and its fetch is admitted. -/
def State.fetchable (s : State) (off : Dword) : Bool := s.inText off && s.admits (s.codeAddr off) 1 .fetch

/-- The byte `j + 1` from an offset is the byte `j` from the next one. -/
theorem add_ofNat_succ (off : Dword) (j : Nat) : off + BitVec.ofNat 32 (j + 1) = off + 1 + BitVec.ofNat 32 j := by
  rw [BitVec.add_assoc, Nat.add_comm, BitVec.ofNat_add]; rfl

theorem State.codeBytes_of_not_fetchable {s : State} {off : Dword} (h : s.fetchable off = false) (n : Nat) :
    s.codeBytes n off = [] := by
  cases n with
  | zero => rfl
  | succ n => exact if_neg (Bool.not_eq_true _ ▸ h)

theorem State.codeBytes_of_fetchable {s : State} {off : Dword} (h : s.fetchable off = true) (n : Nat) :
    s.codeBytes (n + 1) off = s.codeByte off :: s.codeBytes n (off + 1) := if_pos h

/-- Where the first `k` bytes can be fetched, and no more are asked for or the next cannot, these are the bytes. -/
theorem State.codeBytes_eq_map {s : State} {n k : Nat} (hkn : k ≤ n) {off : Dword}
    (hok : ∀ j, j < k → s.fetchable (off + BitVec.ofNat 32 j) = true)
    (hstop : k < n → s.fetchable (off + BitVec.ofNat 32 k) = false) :
    s.codeBytes n off = (List.range k).map fun j => s.codeByte (off + BitVec.ofNat 32 j) := by
  induction k generalizing n off with
  | zero =>
    obtain rfl | hn := n.eq_zero_or_pos
    · rfl
    · exact codeBytes_of_not_fetchable (by simpa using hstop hn) n
  | succ k ih =>
    obtain ⟨n, rfl⟩ := Nat.exists_eq_add_of_lt hkn
    have first : s.fetchable off = true := by simpa using hok 0 k.succ_pos
    rw [codeBytes_of_fetchable first, ih (by omega)
      (fun j hj => by rw [← add_ofNat_succ]; exact hok (j + 1) (by omega))
      (fun hk => by rw [← add_ofNat_succ]; exact hstop (by omega)), List.range_succ_eq_map, List.map_cons, List.map_map]
    refine congrArg₂ List.cons (by simp) (List.map_congr_left fun j _ => ?_)
    exact congrArg s.codeByte (add_ofNat_succ off j).symm

theorem State.inText_iff {s : State} {off : Dword} :
    s.inText off = true ↔ s.params.textBase.toNat ≤ off.toNat ∧ off.toNat < s.params.endAddr.toNat := by
  rw [inText, Bool.and_eq_true, decide_eq_true_eq, decide_eq_true_eq]

/-- The bytes end inside the text, without wrapping. -/
theorem State.codeBytes_le_endAddr {s : State} {off : Dword} (h : off.toNat ≤ s.params.endAddr.toNat) (n : Nat) :
    off.toNat + (s.codeBytes n off).length ≤ s.params.endAddr.toNat := by
  induction n generalizing off with
  | zero => exact h
  | succ n ih =>
    cases hf : s.fetchable off with
    | false => rwa [codeBytes_of_not_fetchable hf]
    | true =>
      obtain ⟨-, hend⟩ := inText_iff.mp (Bool.and_eq_true_iff.mp hf).1
      have next : (off + 1).toNat = off.toNat + 1 := by
        have := s.params.endAddr.isLt
        bv_omega
      have := ih (off := off + 1) (by omega)
      rw [codeBytes_of_fetchable hf, List.length_cons]
      omega

/-- The instruction read at an offset has from one to fifteen bytes, and ends inside the text. -/
theorem State.length_of_decodeRaw {s : State} {off : Dword} (h : off.toNat ≤ s.params.endAddr.toNat) {i : Instr}
    {r : List Byte} (hdecode : decodeRaw s.params.sizes (s.codeBytes maxLength off) = .ok (i, r)) :
    1 ≤ i.length ∧ off.toNat + i.length ≤ s.params.endAddr.toNat := by
  have bytes := Sys2Proof.length_of_decodeRaw hdecode
  have inside := s.codeBytes_le_endAddr h maxLength
  obtain ⟨one, -⟩ := lengthWithinFifteen i
  omega

/-! ### What keeps the text -/

/-- The parameters and every byte of the program text are the same. -/
def SameText (s t : State) : Prop := t.params = s.params ∧ ∀ off, s.inText off = true → t.codeByte off = s.codeByte off

theorem SameText.refl (s : State) : SameText s s := ⟨rfl, fun _ _ => rfl⟩

theorem SameText.trans {s t u : State} (hst : SameText s t) (htu : SameText t u) : SameText s u := by
  obtain ⟨hparams, hbytes⟩ := hst
  obtain ⟨hparams', hbytes'⟩ := htu
  exact ⟨hparams'.trans hparams,
    fun off hoff => (hbytes' off ((State.inText_congr hparams off).trans hoff)).trans (hbytes off hoff)⟩

section SameText

variable {s t : State} (h : SameText s t)
include h

theorem SameText.fetchable (off : Dword) : t.fetchable off = s.fetchable off := by
  obtain ⟨hparams, -⟩ := h
  rw [State.fetchable, State.fetchable, State.inText_congr hparams, State.admits_congr hparams, State.codeAddr,
    State.codeAddr, State.linear_congr hparams]

theorem SameText.codeBytes (n : Nat) (off : Dword) : t.codeBytes n off = s.codeBytes n off := by
  induction n generalizing off with
  | zero => rfl
  | succ n ih =>
    cases hf : s.fetchable off with
    | false => rw [State.codeBytes_of_not_fetchable hf, State.codeBytes_of_not_fetchable ((h.fetchable off).trans hf)]
    | true =>
      rw [State.codeBytes_of_fetchable hf, State.codeBytes_of_fetchable ((h.fetchable off).trans hf), ih,
        h.2 off (Bool.and_eq_true_iff.mp hf).1]

theorem SameText.instrAt (off : Dword) : t.instrAt off = s.instrAt off := by
  rw [State.instrAt, State.instrAt, h.1, h.codeBytes]

theorem SameText.sweep (n : Nat) (at0 target : Dword) : t.sweep n at0 target = s.sweep n at0 target := by
  induction n generalizing at0 with
  | zero => rfl
  | succ n ih => simp only [State.sweep, h.instrAt, ih]

theorem SameText.isStart (off : Dword) : t.isStart off = s.isStart off := by
  rw [State.isStart, State.isStart, h.1, h.sweep]

end SameText

/-- An operand that may be written covers no byte of the text (20_memory.md R63). -/
theorem Place.not_covers_of_writable {x : Place} {w : Nat} {s : State} (hx : x.writable w s = true) {off : Dword}
    (hoff : s.inText off = true) : ¬ x.covers w (s.codeAddr off) := by
  cases x with
  | byteReg r | reg r => exact id
  | mem a =>
    intro hcovers
    obtain ⟨hno, -⟩ := Bool.and_eq_true_iff.mp hx
    have hits : s.hitsText a (w / 8) = true := by
      refine List.any_eq_true.mpr ⟨_, List.mem_range.mpr hcovers, ?_⟩
      have back : a + BitVec.ofNat 32 (s.codeAddr off - a).toNat - SegBases.base s.params.segBase .cs = off := by
        rw [BitVec.ofNat_toNat, BitVec.setWidth_eq, State.codeAddr, State.linear]
        generalize SegBases.base s.params.segBase .cs = c
        bv_omega
      rwa [back]
    rw [hits] at hno
    cases hno

/-- An instruction that goes on leaves the parameters and the program text. -/
theorem sameText_of_exec {i : Instr} {s t : State} (hwf : Memory.wf s.mem = true) (h : exec i s = .next t) :
    SameText s t := by
  have hparams := (Claims.ends_of_exec h).2.params
  obtain ⟨hready, bytes⟩ := Claims.memoryFrame i s t hwf h
  refine ⟨hparams, fun off hoff => ?_⟩
  rw [State.codeByte, State.codeAddr, State.linear_congr hparams]
  exact bytes _ fun u hu hwr => Place.not_covers_of_writable ((hready u hu).2 hwr) hoff

/-! ### The sweep of the program text -/

theorem State.instrAt_eq_some {s : State} {off : Dword} {i : Instr} :
    s.instrAt off = some i ↔ ∃ r, decodeRaw s.params.sizes (s.codeBytes maxLength off) = .ok (i, r) := by
  rw [instrAt]
  split <;> simp_all

theorem State.sweep_self (s : State) (n : Nat) (off : Dword) : s.sweep (n + 1) off off = true := if_pos rfl

theorem State.sweep_of_instrAt {s : State} {at0 target : Dword} (hne : at0 ≠ target) {i : Instr}
    (hi : s.instrAt at0 = some i) (n : Nat) :
    s.sweep (n + 1) at0 target = s.sweep n (at0 + BitVec.ofNat 32 i.length) target := by
  rw [sweep, if_neg hne, hi]

/-- A sweep that comes to another offset than its own read an instruction at its own. -/
theorem State.exists_instrAt_of_sweep {s : State} {n : Nat} {at0 target : Dword} (hne : at0 ≠ target)
    (h : s.sweep (n + 1) at0 target = true) : ∃ i, s.instrAt at0 = some i := by
  cases hi : s.instrAt at0 with
  | none => rw [sweep, if_neg hne, hi] at h; cases h
  | some i => exact ⟨i, rfl⟩

/-- The instruction at an offset ends inside the text, so the offset behind it does not wrap. -/
theorem State.toNat_add_length {s : State} {off : Dword} (hoff : off.toNat ≤ s.params.endAddr.toNat) {i : Instr}
    (hi : s.instrAt off = some i) :
    (off + BitVec.ofNat 32 i.length).toNat = off.toNat + i.length ∧ 1 ≤ i.length ∧
      off.toNat + i.length ≤ s.params.endAddr.toNat := by
  obtain ⟨r, hdecode⟩ := instrAt_eq_some.mp hi
  obtain ⟨hone, hend⟩ := State.length_of_decodeRaw hoff hdecode
  refine ⟨?_, hone, hend⟩
  have := s.params.endAddr.isLt
  rw [BitVec.toNat_add_of_lt] <;> rw [BitVec.toNat_ofNat, Nat.mod_eq_of_lt (by omega)]
  omega

/-- Where the sweep comes to an instruction that does not end the text, it comes to the one after it: each instruction has
at least one byte, so the bound on their number is not reached. -/
theorem State.sweep_next {s : State} {n : Nat} {at0 target : Dword} (hfuel : s.params.endAddr.toNat - at0.toNat ≤ n)
    (hat : at0.toNat ≤ s.params.endAddr.toNat) (h : s.sweep n at0 target = true) {i : Instr}
    (hi : s.instrAt target = some i) (hend : target.toNat + i.length < s.params.endAddr.toNat) :
    s.sweep n at0 (target + BitVec.ofNat 32 i.length) = true := by
  induction n generalizing at0 with
  | zero => cases h
  | succ n ih =>
    by_cases hself : at0 = target + BitVec.ofNat 32 i.length
    · rw [← hself]; exact s.sweep_self n at0
    by_cases htarget : at0 = target
    · subst htarget
      obtain ⟨-, hone, -⟩ := State.toNat_add_length hat hi
      obtain ⟨m, rfl⟩ : ∃ m, n = m + 1 := ⟨n - 1, by omega⟩
      rw [sweep_of_instrAt hself hi]
      exact s.sweep_self m _
    · obtain ⟨j, hj⟩ := exists_instrAt_of_sweep htarget h
      obtain ⟨hnext, hone, hj_end⟩ := State.toNat_add_length hat hj
      rw [sweep_of_instrAt htarget hj] at h
      rw [sweep_of_instrAt hself hj]
      exact ih (by omega) (by omega) h

/-! ### The fetch -/

theorem fetchEnd_ne_next (s : State) (k : Nat) (i : Instr) : fetchEnd s k ≠ .next i := by
  rw [fetchEnd]
  split_ifs <;> exact nofun

/-- A fetch gives exactly the instruction that the bytes decode to. -/
theorem fetch_eq_next {s : State} {i : Instr} :
    fetch s = .next i ↔ ∃ r, decode s.params.sizes (s.codeBytes maxLength s.eip) = .ok (i, r) := by
  rw [fetch]
  split <;> simp_all [fetchEnd_ne_next]

/-- Bytes that end inside an instruction stop the fetch behind them. -/
theorem fetch_of_truncated {s : State}
    (h : decode s.params.sizes (s.codeBytes maxLength s.eip) = .error .truncated) :
    fetch s = fetchEnd s (s.codeBytes maxLength s.eip).length := by
  rw [fetch, h]

/-- LOCK where it does not fit is InvalidOpcode. -/
theorem fetch_of_lockNotAccepted {s : State}
    (h : decode s.params.sizes (s.codeBytes maxLength s.eip) = .error .lockNotAccepted) :
    fetch s = .fault (.invalidOpcode s.eip) := by
  rw [fetch, h]

/-- Any other error of the decoder is the refusal of the fetch. -/
theorem fetch_of_error {s : State} {e : DecodeError}
    (h : decode s.params.sizes (s.codeBytes maxLength s.eip) = .error e) (htruncated : e ≠ .truncated)
    (hlock : e ≠ .lockNotAccepted) : fetch s = .refused (.encoding e) := by
  rw [fetch, h]
  split <;> simp_all

/-! ### The step -/

section Step

variable {s t : State} (hend : s.eip ≠ s.params.endAddr) (htext : s.inText s.eip = true)

theorem step_of_final (h : s.eip = s.params.endAddr) : step s = .refused .endOfRun := if_pos h

theorem step_of_outside (hend : s.eip ≠ s.params.endAddr) (h : s.inText s.eip = false) :
    step s = .refused (.outsideText s.eip) := by
  rw [step, if_neg hend, h]; rfl

include hend htext

theorem step_of_fetch_fault {f : Fault} (h : fetch s = .fault f) : step s = .fault f := by
  rw [step, if_neg hend, htext, h]; rfl

theorem step_of_fetch_refused {f : Refusal} (h : fetch s = .refused f) : step s = .refused f := by
  rw [step, if_neg hend, htext, h]; rfl

variable {i : Instr} (hfetch : fetch s = .next i)
include hfetch

theorem step_of_exec_fault {f : Fault} (h : exec i s = .fault f) : step s = .fault f := by
  rw [step, if_neg hend, htext, hfetch]; simp [h]

theorem step_of_exec_refused {f : Refusal} (h : exec i s = .refused f) : step s = .refused f := by
  rw [step, if_neg hend, htext, hfetch]; simp [h]

theorem step_of_exec_next (h : exec i s = .next t) : step s = settle i s t := by
  rw [step, if_neg hend, htext, hfetch]; simp [h]

end Step

/-- A step settles at END_ADDR, behind the instruction, or at an instruction's start (70_reset_and_hazards.md R276). -/
def Settled (i : Instr) (s t : State) : Prop :=
  t.eip = t.params.endAddr ∨
    t.inText t.eip = true ∧ (t.eip = s.eip + BitVec.ofNat 32 i.length ∨ t.isStart t.eip = true)

theorem settle_eq_next {i : Instr} {s t t' : State} (h : settle i s t' = .next t) : t' = t ∧ Settled i s t := by
  rw [settle] at h
  split_ifs at h with hfinal htext hbehind hstart
  · cases h; exact ⟨rfl, .inl hfinal⟩
  · cases h; exact ⟨rfl, .inr ⟨by simpa using htext, .inl hbehind⟩⟩
  · cases h; exact ⟨rfl, .inr ⟨by simpa using htext, .inr hstart⟩⟩

/-- What a step that goes on has done. -/
theorem step_eq_next {s t : State} (h : step s = .next t) :
    s.inText s.eip = true ∧ ∃ i, fetch s = .next i ∧ exec i s = .next t ∧ Settled i s t := by
  by_cases hend : s.eip = s.params.endAddr
  · rw [step_of_final hend] at h; cases h
  cases htext : s.inText s.eip with
  | false => rw [step_of_outside hend htext] at h; cases h
  | true =>
    cases hfetch : fetch s with
    | fault f => rw [step_of_fetch_fault hend htext hfetch] at h; cases h
    | refused f => rw [step_of_fetch_refused hend htext hfetch] at h; cases h
    | next i =>
      cases hexec : exec i s with
      | fault f => rw [step_of_exec_fault hend htext hfetch hexec] at h; cases h
      | refused f => rw [step_of_exec_refused hend htext hfetch hexec] at h; cases h
      | next t' =>
        rw [step_of_exec_next hend htext hfetch hexec] at h
        obtain ⟨rfl, hsettled⟩ := settle_eq_next h
        exact ⟨rfl, i, rfl, hexec, hsettled⟩

end Sys2Proof.Machine
end

section
/-! PROOFS. The step (60_exceptions.md R241, R246, 70_reset_and_hazards.md R276): what it runs, where a fetch stops it, and
what every step and every run keeps. -/

namespace Sys2Proof.Claims

open Sys2Proof.Machine

/-- Settles O10: the first two questions of the step. -/
theorem outsideTextNoStep : Obligations.OutsideTextNoStep := fun _ => ⟨step_of_final, step_of_outside⟩

/-- Settles O13: the reset state is evaluated. -/
theorem resetIsGood : Obligations.ResetIsGood := by
  unfold Obligations.ResetIsGood
  decide

/-- Settles O9: the step is exec of what was fetched, and what that leads to is settled. -/
theorem stepRunsDecodedInstruction : Obligations.StepRunsDecodedInstruction := by
  intro s hend htext
  refine ⟨fun i r hdecode => ?decoded, fun e he htruncated hlock => ?refused, fun he => ?lock⟩
  case refused => exact step_of_fetch_refused hend htext (fetch_of_error he htruncated hlock)
  case lock => exact step_of_fetch_fault hend htext (fetch_of_lockNotAccepted he)
  case decoded =>
    have hfetch := fetch_eq_next.mpr ⟨r, hdecode⟩
    refine ⟨wf_of_decode hdecode, fun f => step_of_exec_fault hend htext hfetch,
      fun f => step_of_exec_refused hend htext hfetch, fun t hexec => ?_⟩
    have hparams := (ends_of_exec hexec).2.params
    rw [step_of_exec_next hend htext hfetch hexec, settle, ← hparams, ← State.inText_congr hparams]
    refine ⟨fun h => if_pos h, fun hne hout => ?outside, fun hin h => ?goes, fun hne hin hbehind hstart => ?mid⟩
    case outside => rw [if_neg hne, hout]; rfl
    case mid => simp [hne, hin, hbehind, hstart]
    case goes =>
      rw [hin]
      split_ifs with hfinal hno hbehind hstart
      · rfl
      · exact absurd hno Bool.false_ne_true
      · rfl
      · rfl
      · exact (h.elim hbehind hstart).elim

/-- The rows that accept LOCK are the `lock_ok` ones (30_encoding.md R84). -/
theorem isSome_withLock (b : Bool) (i : Instr) : (withLock b i).isSome = i.shape.lockOk := by cases i <;> rfl

/-- Settles O7: LOCK is judged on what was read. -/
theorem lockAcceptedOrInvalidOpcode : Obligations.LockAcceptedOrInvalidOpcode := by
  intro s i r hend htext hraw hlock
  rw [isSome_withLock]
  have hfits : i.shape.lockFits = (i.shape.lockOk && i.shape.mem.isSome) := by
    rw [Shape.lockFits, show i.shape.marks.lock = true from hlock]; rfl
  have hdecode := decode_of_decodeRaw hraw
  refine ⟨fun hrow hmem => ?accepted, fun hno => ?faults⟩
  case accepted =>
    rw [hfits, hrow, hmem] at hdecode
    exact fetch_eq_next.mpr ⟨r, hdecode⟩
  case faults =>
    have hnot : (i.shape.lockOk && i.shape.mem.isSome) = false := by
      rcases hno with hrow | hmem
      · rw [hrow, Bool.false_and]
      · rw [hmem, Option.isSome_none, Bool.and_false]
    rw [hfits, hnot] at hdecode
    exact step_of_fetch_fault hend htext (fetch_of_lockNotAccepted hdecode)

/-- Settles O11: the bytes fetched are those before the one that stops the fetch, which `fetchEnd` judges. -/
theorem fetchFaults : Obligations.FetchFaults := by
  intro s k hend htext hk hbefore htruncated
  have stopped : s.fetchable (s.eip + BitVec.ofNat 32 k) = false → fetch s = fetchEnd s k := by
    intro hstop
    have bytes := State.codeBytes_eq_map (n := maxLength) hk.le
      (fun j hj => Bool.and_eq_true_iff.mpr (hbefore j hj)) fun _ => hstop
    rw [fetch_of_truncated (bytes ▸ htruncated), bytes, List.length_map, List.length_range]
  have hshort : k ≠ maxLength := hk.ne
  refine ⟨fun hin hno => step_of_fetch_fault hend htext ?_, fun hout => step_of_fetch_refused hend htext ?_⟩
  · rw [stopped (by rw [State.fetchable, hno, Bool.and_false]), fetchEnd, if_neg hshort, if_pos hin]
  · rw [stopped (by rw [State.fetchable, hout, Bool.false_and]), fetchEnd, if_neg hshort, hout]; rfl

/-- The instruction fetched is the one the sweep reads at EIP. -/
theorem instrAt_of_fetch {s : State} {i : Instr} (h : fetch s = .next i) : s.instrAt s.eip = some i := by
  obtain ⟨r, hdecode⟩ := fetch_eq_next.mp h
  exact State.instrAt_eq_some.mpr ⟨r, (decode_eq_ok hdecode).1⟩

/-- Settles O15: the bytes of the instruction end inside the text, and the step settles there too. -/
theorem stepStaysInText : Obligations.StepStaysInText := by
  intro s t h
  obtain ⟨htext, i, hfetch, hexec, hsettled⟩ := step_eq_next h
  obtain ⟨hbase, hend⟩ := State.inText_iff.mp htext
  obtain ⟨-, -, hlength⟩ := State.toNat_add_length hend.le (instrAt_of_fetch hfetch)
  refine ⟨i, hfetch, hexec, hbase, hlength, ?_⟩
  have hparams := (ends_of_exec hexec).2.params
  rcases hsettled with hfinal | ⟨hin, -⟩
  · rw [hfinal, hparams]
    exact ⟨hbase.trans hend.le, le_rfl⟩
  · rw [State.inText_congr hparams] at hin
    obtain ⟨hbase', hend'⟩ := State.inText_iff.mp hin
    exact ⟨hbase', hend'.le⟩

theorem good_iff {s : State} : s.good = true ↔
    Memory.wf s.mem = true ∧ (s.eip = s.params.endAddr ∨ s.inText s.eip = true ∧ s.isStart s.eip = true) := by
  rw [State.good, State.atBoundary, Bool.and_eq_true, Bool.or_eq_true, decide_eq_true_eq, Bool.and_eq_true]

/-- A step from a good state leads to a good one and leaves the program text. -/
theorem good_of_step {s t : State} (hgood : s.good = true) (h : step s = .next t) :
    t.good = true ∧ SameText s t := by
  obtain ⟨hwf, hboundary⟩ := good_iff.mp hgood
  obtain ⟨htext, i, hfetch, hexec, hsettled⟩ := step_eq_next h
  have hsame := sameText_of_exec hwf hexec
  refine ⟨good_iff.mpr ⟨wf_of_exec hexec hwf, hsettled.imp_right fun ⟨hin, hwhere⟩ => ⟨hin, ?_⟩⟩, hsame⟩
  rcases hwhere with hbehind | hstart
  case inr => exact hstart
  case inl =>
    obtain ⟨hbase, hend⟩ := State.inText_iff.mp htext
    have hstart : s.isStart s.eip = true := by
      rcases hboundary with hfinal | ⟨-, hstart⟩
      · exact absurd (congrArg BitVec.toNat hfinal) hend.ne
      · exact hstart
    have hi := instrAt_of_fetch hfetch
    obtain ⟨hnext, -, -⟩ := State.toNat_add_length hend.le hi
    obtain ⟨-, hlast⟩ := State.inText_iff.mp ((State.inText_congr hsame.1 t.eip).symm.trans hin)
    rw [hbehind, hnext] at hlast
    rw [hsame.isStart, hbehind]
    exact State.sweep_next le_rfl (hbase.trans hend.le) hstart hi hlast

/-- Settles O12: the text stays, so the sweep that came to the instruction comes to the one after it. -/
theorem stepKeepsGood : Obligations.StepKeepsGood := fun _ _ hgood h => (good_of_step hgood h).1

/-- Settles O14, by induction on the number of steps. -/
theorem runNeverChangesProgram : Obligations.RunNeverChangesProgram := by
  suffices run : ∀ (k : Nat) (s t : State), s.good = true → Host.Core.run Sys2Proof.core k s = .next t →
      t.good = true ∧ SameText s t from run
  intro k
  induction k with
  | zero =>
    intro s t hgood h
    cases h
    exact ⟨hgood, .refl s⟩
  | succ k ih =>
    intro s t hgood h
    cases hstep : step s with
    | fault f => simp [Host.Core.run, core, hstep] at h
    | refused f => simp [Host.Core.run, core, hstep] at h
    | next u =>
      obtain ⟨hgoodu, hsameu⟩ := good_of_step hgood hstep
      have rest : Host.Core.run Sys2Proof.core k u = .next t := by simpa [Host.Core.run, core, hstep] using h
      obtain ⟨hgoodt, hsamet⟩ := ih u t hgoodu rest
      exact ⟨hgoodt, hsameu.trans hsamet⟩

end Sys2Proof.Claims
end

section
/-! PROOFS. Loading a program from outside (70_reset_and_hazards.md R272, R273): the bytes placed stand at their offsets,
and the text of a loaded table word is its first instruction. -/

namespace Sys2Proof.Machine

theorem add_ofNat_injective {off : Dword} {j k : Nat} (hj : j < 2 ^ 32) (hk : k < 2 ^ 32)
    (h : off + BitVec.ofNat 32 j = off + BitVec.ofNat 32 k) : j = k := by
  have := congrArg BitVec.toNat (add_left_cancel h)
  rwa [BitVec.toNat_ofNat, BitVec.toNat_ofNat, Nat.mod_eq_of_lt hj, Nat.mod_eq_of_lt hk] at this

/-- Byte `j` of the code placed at an offset stands at the `j`-th offset from there. -/
theorem State.byte_placeCode {s : State} (hwf : Memory.wf s.mem = true) {bs : List Byte} (hbs : bs.length ≤ 2 ^ 32)
    (off : Dword) {j : Nat} (hj : j < bs.length) :
    Memory.byte (s.placeCode bs off) (s.codeAddr (off + BitVec.ofNat 32 j)).toNat = bs[j] := by
  induction bs generalizing off j with
  | nil => exact absurd hj (Nat.not_lt_zero j)
  | cons b bs ih =>
    rw [placeCode, Memory.byte_set (State.wf_placeCode hwf bs (off + 1))]
    cases j with
    | zero => simp
    | succ j =>
      rw [List.length_cons] at hj hbs
      have apart : s.codeAddr (off + BitVec.ofNat 32 (j + 1)) ≠ s.codeAddr off := by
        intro heq
        have := add_ofNat_injective (off := off) (j := j + 1) (k := 0) (by omega) (by decide)
          (by simpa using add_left_cancel heq)
        exact Nat.succ_ne_zero j this
      rw [if_neg (mt BitVec.eq_of_toNat_eq apart), add_ofNat_succ]
      exact ih (by omega) (off + 1) (by omega)

/-- A program loaded within the address range is fetched as far as its text goes. -/
theorem State.codeBytes_load {s : State} (hwf : Memory.wf s.mem = true) {code : List Byte} {len : Nat}
    (hlen : len ≤ code.length) (hroom : s.eip.toNat + code.length < 2 ^ 32) {n : Nat} (hn : len ≤ n) :
    (s.load code len).codeBytes n s.eip = code.take len := by
  have toNat_add : ∀ j ≤ len, (s.eip + BitVec.ofNat 32 j).toNat = s.eip.toNat + j := by
    intro j hj; bv_omega
  have inText_iff : ∀ j ≤ len, (s.load code len).inText (s.eip + BitVec.ofNat 32 j) = true ↔ j < len := by
    intro j hj
    have hend : (s.load code len).params.endAddr.toNat = s.eip.toNat + len := toNat_add len le_rfl
    rw [State.inText_iff, load_textBase, toNat_add j hj, hend]
    omega
  have admitted : ∀ j < len, (s.load code len).admits ((s.load code len).codeAddr (s.eip + BitVec.ofNat 32 j)) 1 .fetch
      = true := by
    intro j hj
    rw [State.admits_iff, load_grants]
    refine ⟨_, List.mem_cons_self, by simp, ?_⟩
    have distance : (s.load code len).codeAddr (s.eip + BitVec.ofNat 32 j) - s.codeAddr s.eip = BitVec.ofNat 32 j := by
      have code : (s.load code len).codeAddr (s.eip + BitVec.ofNat 32 j) = s.codeAddr s.eip + BitVec.ofNat 32 j :=
        (BitVec.add_assoc ..).symm
      rw [code, add_sub_cancel_left]
    rw [distance, BitVec.toNat_ofNat]
    exact (Nat.mod_le _ _).trans_lt (hj.trans_le hlen)
  rw [State.codeBytes_eq_map hn (fun j hj => Bool.and_eq_true_iff.mpr ⟨(inText_iff j hj.le).mpr hj, admitted j hj⟩)
    fun _ => by rw [fetchable, Bool.eq_false_iff.mpr (mt (inText_iff len le_rfl).mp (lt_irrefl len)), Bool.false_and]]
  refine List.ext_getElem (by simp [hlen]) fun j hj hj' => ?_
  rw [List.getElem_map, List.getElem_range, List.getElem_take]
  exact byte_placeCode hwf (by omega) s.eip _

end Sys2Proof.Machine

namespace Sys2Proof.Claims

open Sys2Proof.Machine

/-- Settles O16: the text of the loaded word is the bytes that the decoder took, and they are the instruction's whatever
follows. -/
theorem loadedWordIsFetched : Obligations.LoadedWordIsFetched := by
  intro s nbits w i r hwf hroom h
  have hraw := (decode_eq_ok h).1
  have hlength : codeLength s.params.sizes (tableBytes nbits w) = i.length := by rw [codeLength, hraw]
  have htable : (tableBytes nbits w).length = 15 := by rw [tableBytes, List.length_map, List.length_range]; rfl
  have hfit : i.length ≤ (tableBytes nbits w).length := by
    have := length_of_decodeRaw hraw
    omega
  obtain ⟨-, ms, body, hbytes, -, -, htaken, hothers⟩ := decodeConsumesItsLength _ _ _ _ h
  have hread := State.codeBytes_load hwf hfit (by omega) (n := maxLength) (hfit.trans htable.le)
  rw [hbytes, ← htaken, List.take_left] at hread
  refine fetch_eq_next.mpr ⟨[], ?_⟩
  rw [State.withFetchWord, hlength, State.load_sizes, State.load_eip, hbytes, ← htaken, hread]
  simpa using hothers []

end Sys2Proof.Claims
end

section
/-! PROOFS. Bytes and bits of memory (20_memory.md R50 to R52, R59, 41_bit_test.md R143): a load is said bit by bit, and
from that byte by byte. -/

namespace Sys2Proof.Machine

/-! ### Loads, bit by bit -/

/-- Bit `j` of a load is bit `j mod 8` of the byte `j / 8` addresses on. -/
theorem Memory.testBit_loadNat (m : Memory) (n : Nat) (a : Dword) {j : Nat} (hj : j < 8 * n) :
    (Memory.loadNat m n a).testBit j = (Memory.byte m (a + BitVec.ofNat 32 (j / 8)).toNat).getLsbD (j % 8) := by
  induction n generalizing a j with
  | zero => exact absurd hj (Nat.not_lt_zero j)
  | succ n ih =>
    rw [Memory.loadNat, Nat.add_comm, show 256 = 2 ^ 8 from rfl, Nat.testBit_two_pow_mul_add _ (BitVec.isLt _)]
    split
    · next hlow =>
      rw [Nat.div_eq_of_lt hlow, Nat.mod_eq_of_lt hlow, BitVec.add_zero]
      rfl
    · next hhigh =>
      obtain ⟨k, rfl⟩ := Nat.exists_eq_add_of_le (Nat.le_of_not_lt hhigh)
      rw [Nat.add_sub_cancel_left, ih (a + 1) (by omega), Nat.add_mod_left, Nat.add_div_left _ (by decide),
        add_ofNat_succ]

/-- Bit `j` of a load of whole bytes is bit `j mod 8` of the byte `j / 8` addresses on. -/
theorem Memory.getLsbD_load (m : Memory) {w : Nat} (hw : 8 * (w / 8) = w) (a : Dword) {j : Nat} (hj : j < w) :
    (Memory.load m w a).getLsbD j = (Memory.byte m (a + BitVec.ofNat 32 (j / 8)).toNat).getLsbD (j % 8) := by
  rw [Memory.load, BitVec.getLsbD_ofNat, decide_eq_true hj, Bool.true_and]
  exact Memory.testBit_loadNat m _ a (by omega)

theorem Memory.load_byte (m : Memory) (a : Dword) : Memory.load m 8 a = Memory.byte m a.toNat := by
  refine BitVec.eq_of_getLsbD_eq fun j hj => ?_
  rw [Memory.getLsbD_load m rfl a hj, Nat.div_eq_of_lt hj, Nat.mod_eq_of_lt hj, BitVec.add_zero]

/-- One byte more is a byte at the lowest address. -/
theorem Memory.load_add_eight (m : Memory) {w : Nat} (hw : 8 * (w / 8) = w) (a : Dword) :
    Memory.load m (w + 8) a = Memory.load m w (a + 1) ++ Memory.byte m a.toNat := by
  refine BitVec.eq_of_getLsbD_eq fun j hj => ?_
  rw [Memory.getLsbD_load m (by omega) a hj, BitVec.getLsbD_append]
  split
  · next hlow => rw [Nat.div_eq_of_lt hlow, Nat.mod_eq_of_lt hlow, BitVec.add_zero]
  · next hhigh =>
    obtain ⟨k, rfl⟩ := Nat.exists_eq_add_of_le (Nat.le_of_not_lt hhigh)
    rw [Nat.add_sub_cancel_left, Memory.getLsbD_load m hw (a + 1) (by omega), Nat.add_mod_left,
      Nat.add_div_left _ (by decide), add_ofNat_succ]

end Sys2Proof.Machine

namespace Sys2Proof.Claims

open Sys2Proof.Machine

/-- Settles O20: one byte after the other, from the lowest address on. -/
theorem loadIsLittleEndian : Obligations.LoadIsLittleEndian := by
  intro m a
  have word : ∀ a, Memory.load m 16 a = Memory.byte m (a + 1).toNat ++ Memory.byte m a.toNat := fun a =>
    (m.load_add_eight (w := 8) rfl a).trans (congrArg (· ++ Memory.byte m a.toNat) (m.load_byte (a + 1)))
  have three : ∀ a, Memory.load m 24 a =
      Memory.byte m (a + 2).toNat ++ Memory.byte m (a + 1).toNat ++ Memory.byte m a.toNat := fun a => by
    have := (m.load_add_eight (w := 16) rfl a).trans (congrArg (· ++ Memory.byte m a.toNat) (word (a + 1)))
    rwa [BitVec.add_assoc] at this
  refine ⟨m.load_byte a, word a, ?_⟩
  have := (m.load_add_eight (w := 24) rfl a).trans (congrArg (· ++ Memory.byte m a.toNat) (three (a + 1)))
  rwa [BitVec.add_assoc, BitVec.add_assoc] at this

/-- Settles O21: `byte_storeNat_same` and `byte_storeNat_other` for the three widths. -/
theorem storeThenLoad : Obligations.StoreThenLoad := by
  intro m w a v hwf hw
  have widths : w = 8 ∨ w = 16 ∨ w = 32 := by simpa using hw
  have hsize : w / 8 ≤ 2 ^ 32 := by omega
  refine ⟨Memory.load_store hwf (by omega) hsize a v, fun j hj => ?_,
    fun b hb => Memory.byte_storeNat_other hwf _ a _ b hsize hb⟩
  rw [Memory.store, Memory.byte_storeNat_same hwf _ a _ j hsize hj, BitVec.extractLsb', Nat.shiftRight_eq_div_pow,
    pow_mul]
  rfl

/-- The byte of a bit string's bit: whole units on, then bytes within the unit (41_bit_test.md R142, R143). -/
theorem byte_of_bitString {w : Nat} (hw : w = 8 ∨ w = 16 ∨ w = 32) (n : Int) :
    (w / 8 : Int) * (n / w) + ((n % w).toNat / 8 : Nat) = n / 8 ∧ (n % w).toNat % 8 = (n % 8).toNat := by
  rcases hw with rfl | rfl | rfl <;> omega

/-- Settles O33: the bit of the loaded unit is the bit of one of its bytes. -/
theorem bitStringInBytes : Obligations.BitStringInBytes := by
  intro i s b a x hview hbase hoff
  have hw : b.w = 8 ∨ b.w = 16 ∨ b.w = 32 := by
    simpa [hbase, Place.widths] using mem_widths_of_bitView hview
  obtain ⟨hbyte, hbit⟩ := byte_of_bitString hw x.toInt
  have hoffset : b.offset = x.toInt := by rw [BitView.offset, hoff]
  have hunit : b.unit = .mem (a + BitVec.ofInt 32 (b.w / 8 * (x.toInt / b.w))) := by rw [BitView.unit, hbase, hoff]
  have hindex : b.index < b.w := by
    have hpos : (0 : Int) < b.w := by omega
    have := Int.emod_nonneg b.offset hpos.ne'
    have := Int.emod_lt_of_pos b.offset hpos
    rw [BitView.index]
    omega
  rw [hunit, Place.read, Memory.getLsbD_load _ (by omega) _ hindex, BitView.index, hoffset, hbit, State.byteAt, ← hbyte,
    BitVec.add_assoc, BitVec.ofInt_add, BitVec.ofInt_natCast]

/-! ### Flags in EFLAGS (10_state.md R27) -/

/-- A flag put in its place is that bit and no other. -/
theorem getLsbD_flagPlace (b : Bool) (k : Nat) {j : Nat} (hj : j < 32) :
    ((BitVec.ofBool b).setWidth 32 <<< k).getLsbD j = (decide (j = k) && b) := by
  rw [BitVec.getLsbD_shiftLeft, BitVec.getLsbD_setWidth, BitVec.getLsbD_ofBool]
  by_cases hjk : j = k
  · subst hjk; simp [hj]
  · have : ¬ (¬ j < k ∧ j - k = 0) := by omega
    simp_all

/-- Settles O19: the mask clears the six places, and each flag fills its own. -/
theorem flagPlaces : Obligations.FlagPlaces := by
  intro f x j hj
  have mask : ∀ j < 32, (0x8D5 : Dword).getLsbD j = decide (j = 0 ∨ j = 2 ∨ j = 4 ∨ j = 6 ∨ j = 7 ∨ j = 11) := by decide
  have place := fun b k => getLsbD_flagPlace b k hj
  have cf : ((BitVec.ofBool f.cf).setWidth 32).getLsbD j = (decide (j = 0) && f.cf) := by simpa using place f.cf 0
  simp only [Flags.image, BitVec.getLsbD_or, BitVec.getLsbD_and, BitVec.getLsbD_not, mask j hj, place, cf, hj]
  split_ifs <;> simp_all

/-! ### MEM_ADMIT (00_scope.md R7) -/

/-- The grant of the accesses of `n` bytes at the one address `a`, of the kinds allowed there. -/
def grantAt (allowed : Dword → Nat → AccessKind → Bool) (a : Dword) (n : Nat) : Grant :=
  ⟨a, 1, [n], [.read, .write, .fetch].filter (allowed a n)⟩

/-- The grants of all accesses at the addresses of a list. -/
def grantsAt (allowed : Dword → Nat → AccessKind → Bool) (addresses : List Dword) : List Grant :=
  addresses.flatMap fun a => [1, 2, 4].map (grantAt allowed a)

theorem mem_kinds_grantAt {allowed : Dword → Nat → AccessKind → Bool} {a : Dword} {n : Nat} {k : AccessKind} :
    k ∈ (grantAt allowed a n).kinds ↔ allowed a n k = true := by
  have : k ∈ [AccessKind.read, .write, .fetch] := by cases k <;> decide
  rw [grantAt, List.mem_filter, and_iff_right this]

/-- Every address is on some list. -/
theorem exists_all_addresses : ∃ l : List Dword, ∀ a, a ∈ l :=
  ⟨(List.range (2 ^ 32)).map (BitVec.ofNat 32), fun a =>
    List.mem_map.mpr ⟨a.toNat, List.mem_range.mpr a.isLt, by simp⟩⟩

/-- Settles O49: one grant for each address and size. -/
theorem anyAdmissionPredicate : Obligations.AnyAdmissionPredicate := by
  intro allowed
  obtain ⟨addresses, hall⟩ := exists_all_addresses
  refine ⟨grantsAt allowed addresses, fun s a n k hn => ?_⟩
  rw [Bool.eq_iff_iff, State.admits_iff]
  constructor
  · rintro ⟨g, hg, ⟨hk, hsize⟩, hfirst⟩
    obtain ⟨b, -, hg⟩ := List.mem_flatMap.mp hg
    obtain ⟨m, -, rfl⟩ := List.mem_map.mp hg
    obtain rfl : n = m := List.mem_singleton.mp hsize
    obtain rfl : a = b := sub_eq_zero.mp (BitVec.eq_of_toNat_eq (Nat.lt_one_iff.mp hfirst))
    exact mem_kinds_grantAt.mp hk
  · intro hallowed
    refine ⟨grantAt allowed a n, ?_, ⟨mem_kinds_grantAt.mpr hallowed, List.mem_singleton_self n⟩, ?_⟩
    · exact List.mem_flatMap.mpr ⟨a, hall a, List.mem_map_of_mem hn⟩
    · simp [grantAt]

/-! ### Sample words (95_test_vectors.md) -/

/-- Settles O1: the decoder evaluates each word. -/
theorem sampleWordsDecode : Obligations.SampleWordsDecode := ⟨rfl, rfl, rfl, rfl, rfl, rfl⟩

end Sys2Proof.Claims
end

section
/-! PROOFS. JC and JNC (10_state.md R25, 46_setcc_and_referenced.md R233 to R235). -/

namespace Sys2Proof.Claims

open Sys2Proof.Machine

/-- The target of a taken jump is the sum, its high half cleared at operand size 16. -/
theorem toNat_jumpTarget (v : OpSize) {n : Int} (hlow : 0 ≤ n) (hhigh : n < 2 ^ 32) :
    ((jumpTarget v n).toNat : Int) = if v = .w16 then n % 2 ^ 16 else n := by
  have word : ((BitVec.ofInt 32 n).toNat : Int) = n := by
    rw [BitVec.toNat_ofInt]; omega
  cases v with
  | w16 =>
    have low : (jumpTarget .w16 n).toNat = (BitVec.ofInt 32 n).toNat % 2 ^ 16 :=
      Nat.and_two_pow_sub_one_eq_mod _ 16
    rw [if_pos rfl, low, Int.natCast_mod, word]
    rfl
  | w32 => rw [if_neg nofun]; exact word

/-- Settles O46: the sum is in range, so nothing refuses it. -/
theorem jumpResult : Obligations.JumpResult := by
  intro i s b hview
  rw [exec_of_jumpView hview]
  refine ⟨fun hno => ?past, fun htaken hlow hhigh => ?taken⟩
  case past => rw [beq_eq_false_iff_ne.mpr hno]; rfl
  case taken =>
    refine ⟨_, ?_, toNat_jumpTarget b.v hlow hhigh⟩
    rw [beq_iff_eq.mpr htaken, jumpIf, if_pos rfl, if_neg (by omega)]

/-- Settles O47: the sum is judged before it is cut. -/
theorem jumpWrapRefused : Obligations.JumpWrapRefused := by
  intro i s b hview htaken hout
  rw [exec_of_jumpView hview, beq_iff_eq.mpr htaken, jumpIf, if_pos rfl, if_pos (by omega)]

end Sys2Proof.Claims
end

section
/-! PROOFS. SAR as a division (43_shift.md R178, R179): its result is the floor of the quotient by a power of two. -/

namespace Sys2Proof.Claims

open Sys2Proof.Machine

/-- SAR by `c` is the division by `2^c`, rounded down. -/
theorem toInt_repeatBit_sarBit {w : Nat} (c : Nat) (v : BitVec w) (f : Bool) :
    (repeatBit sarBit c v f).1.toInt = v.toInt / 2 ^ c := by
  rw [repeatBit_sarBit_fst, BitVec.toInt_sshiftRight, Int.shiftRight_eq_div_pow]
  rfl

/-- Settles O38: the remainder is the signed value modulo `2^c`, which is the word's low `c` bits. -/
theorem sarIsFloorDivision : Obligations.SarIsFloorDivision := by
  intro w c v f hc hcw
  rw [toInt_repeatBit_sarBit]
  refine ⟨?floor, ?remainder, ?carry⟩
  case floor =>
    have := Rat.floor_intCast_div_natCast v.toInt (2 ^ c)
    push_cast at this
    exact this.symm
  case remainder =>
    have low : v.toInt % ((2 ^ c : Nat) : Int) = (v.toNat % 2 ^ c : Nat) :=
      toInt_emod_of_dvd (Nat.pow_dvd_pow 2 hcw.le) v
    rw [BitVec.extractLsb'_toNat, Nat.shiftRight_zero, ← low, Int.emod_def, mul_comm]
    simp
  case carry =>
    rw [repeatBit_sarBit_snd (by omega) (by omega), if_pos (by omega), BitVec.msb_eq_getLsbD_last,
      BitVec.getLsbD_extractLsb', Nat.zero_add, decide_eq_true (by omega), Bool.true_and]

/-- Adding `d - 1` to a negative number turns rounding down into rounding toward zero. -/
theorem add_sub_one_ediv {n d : Int} (hn : n < 0) (hd : 0 < d) : (n + (d - 1)) / d = n.tdiv d := by
  have split : n + (d - 1) = n % d + (d - 1) + d * (n / d) := by
    have := Int.emod_add_mul_ediv n d
    omega
  have hmod := Int.emod_nonneg n hd.ne'
  have hlt := Int.emod_lt_of_pos n hd
  rw [Int.tdiv_eq_ediv, split, Int.add_mul_ediv_left _ _ hd.ne', Int.sign_eq_one_of_pos hd]
  by_cases hdvd : d ∣ n
  · rw [if_pos (.inr hdvd), Int.emod_eq_zero_of_dvd hdvd, Int.ediv_eq_zero_of_lt (by omega) (by omega)]
    omega
  · have hne : n % d ≠ 0 := mt Int.dvd_of_emod_eq_zero hdvd
    rw [if_neg (not_or.mpr ⟨hn.not_ge, hdvd⟩), show n % d + (d - 1) = n % d - 1 + d * 1 by omega,
      Int.add_mul_ediv_left _ _ hd.ne', Int.ediv_eq_zero_of_lt (by omega) (by omega)]
    omega

/-- Settles O39: the biased dividend does not overflow. -/
theorem sarWithBiasIsDivision : Obligations.SarWithBiasIsDivision := by
  intro x n f hn hn32
  rw [toInt_repeatBit_sarBit]
  split
  · next hpos => rw [Int.tdiv_eq_ediv_of_nonneg hpos]
  · next hneg =>
    have hbias : (2 : Int) ^ n ≤ 2 ^ 31 := pow_le_pow_right₀ (by decide) (by omega)
    have hone : (1 : Int) ≤ 2 ^ n := one_le_pow₀ (by decide)
    have hbound := BitVec.le_toInt x
    have bias : (BitVec.ofNat 32 (2 ^ n - 1)).toInt = 2 ^ n - 1 := by
      rw [BitVec.toInt_ofNat', Int.bmod_eq_of_le] <;> push_cast [Nat.one_le_two_pow] <;> omega
    have biased : (x + BitVec.ofNat 32 (2 ^ n - 1)).toInt = x.toInt + (2 ^ n - 1) := by
      rw [BitVec.toInt_add, bias, Int.bmod_eq_of_le] <;> omega
    rw [biased]
    exact add_sub_one_ediv (by omega) (by positivity)

end Sys2Proof.Claims
end

section
/-! PROOFS. SHLD and then SHL as one shift of 64 bits (44_double_shift.md R194). -/

namespace Sys2Proof.Claims

open Sys2Proof.Machine

/-- Writing all 32 bits replaces the register. -/
theorem setW_32 (g : Regs) (r : Reg) (v : Dword) : g.setW r v = g.set r v :=
  congrArg (g.set r) (insertBits_full _ v)

/-- SHLD EDX, EAX, c by a count from 1 to 31 writes EDX alone of the registers. -/
theorem exec_shld_edx_eax (p : Marks) {c : Byte} (s : State) (hc : c.toNat ≠ 0) (hc31 : c.toNat ≤ 31) :
    ∃ t, exec (.shldRmvRvImm8 p .w32 (.reg .edx) .eax c) s = .next t ∧
      t.regs = s.regs.set .edx (shldBits (s.regs.get .edx) (s.regs.get .eax) c.toNat).1 := by
  have hcount : fiveBits c = c.toNat := Nat.mod_eq_of_lt (by omega)
  have hexec := exec_of_doubleView (i := .shldRmvRvImm8 p .w32 (.reg .edx) .eax c) (s := s) rfl
  refine ⟨_, hexec.trans (access_reg ..), ?_⟩
  rw [DoubleView.after, hcount, if_neg hc, if_neg (Nat.not_le.mpr (Nat.lt_succ_of_le hc31)),
    ← Regs.getW_32 s.regs .edx, ← Regs.getW_32 s.regs .eax]
  exact setW_32 s.regs .edx _

/-- SHL EAX, c by a count from 1 to 31 writes EAX alone of the registers. -/
theorem exec_shl_eax (p : Marks) {c : Byte} (s : State) (hc : c.toNat ≠ 0) (hc31 : c.toNat ≤ 31) :
    ∃ t, exec (.shlRmvImm8 p .w32 (.reg .eax) c) s = .next t ∧
      t.regs = s.regs.set .eax (s.regs.get .eax <<< c.toNat) := by
  have hcount : fiveBits c = c.toNat := Nat.mod_eq_of_lt (by omega)
  have hexec := exec_of_countView_eq_guard (i := .shlRmvImm8 p .w32 (.reg .eax) c) (s := s) rfl
  refine ⟨_, hexec.trans (access_reg ..), ?_⟩
  rw [CountView.after, hcount, if_neg hc, CountView.moved, ← Regs.getW_32 s.regs .eax,
    ← repeatBit_shlBit_fst _ _ s.flags.cf]
  exact setW_32 s.regs .eax _

/-- A shift of a pair of words, word by word. -/
theorem shldBits_append_shiftLeft {w : Nat} (c : Nat) (x y : BitVec w) :
    (shldBits x y c).1 ++ y <<< c = (x ++ y) <<< c := by
  refine BitVec.eq_of_getLsbD_eq fun j hj => ?_
  rw [BitVec.getLsbD_append]
  split
  · next hlow =>
    have : j - c < w := by omega
    simp only [BitVec.getLsbD_shiftLeft, BitVec.getLsbD_append, hlow, hj, this, if_true]
  · next hhigh =>
    rw [shldBits, BitVec.getLsbD_extractLsb', Nat.add_sub_cancel' (Nat.le_of_not_lt hhigh), decide_eq_true (by omega),
      Bool.true_and]

/-- Settles O41: the two writes are the two halves of the shifted pair. -/
theorem shldThenShlShifts64 : Obligations.ShldThenShlShifts64 := by
  intro p q c s hc hc31
  obtain ⟨t, ht, hregs⟩ := exec_shld_edx_eax p s (c := c) (by omega) hc31
  obtain ⟨u, hu, hregs'⟩ := exec_shl_eax q t (c := c) (by omega) hc31
  refine ⟨t, u, ht, hu, ?_⟩
  rw [hregs', hregs]
  exact shldBits_append_shiftLeft c.toNat s.regs.edx s.regs.eax

end Sys2Proof.Claims
end

section
/-! PROOFS. IDIV (46_setcc_and_referenced.md R230, R231): quotient and remainder fit their registers, which are apart. -/

namespace Sys2Proof.Machine

/-- AL and AH are apart. -/
theorem Regs.get8_al_set8_ah (g : Regs) (v : Byte) : (g.set8 .ah v).get8 .al = g.get8 .al := by
  refine BitVec.eq_of_getLsbD_eq fun j hj => ?_
  have outside : ¬ (Reg8.low .ah ≤ 0 + j ∧ 0 + j < Reg8.low .ah + 8) := by
    simp only [Reg8.low]; omega
  simp only [Regs.get8, BitVec.getLsbD_extractLsb']
  exact congrArg (decide (j < 8) && ·) (Regs.getLsbD_set8_outside g .ah v outside)

/-- A register reads the same after a write to another one. -/
theorem Regs.getW_setW_other (g : Regs) {w : Nat} {r q : Reg} (v : BitVec w) (h : q ≠ r) :
    (g.setW r v).getW w q = g.getW w q :=
  congrArg (BitVec.setWidth w) (Regs.get_setW_other g v h)

end Sys2Proof.Machine

namespace Sys2Proof.Claims

open Sys2Proof.Machine

/-- The divisor of IDIV has 8, 16 or 32 bits. -/
theorem width_of_divideView {i : Instr} {s : State} {b : DivideView} (h : divideView i s = some b) :
    b.w = 8 ∨ b.w = 16 ∨ b.w = 32 := by
  unfold divideView at h
  split at h <;> cases h
  case h_1 => exact .inl rfl
  case h_2 p v src => cases v <;> simp

/-- The remainder that goes with the quotient. -/
def DivideView.remainder (b : DivideView) (s : State) : Int :=
  Machine.dividend b.w s.regs - b.quotient s * b.divisor s

section

variable {b : DivideView} (hw : b.w = 8 ∨ b.w = 16 ∨ b.w = 32) {s : State}
include hw

/-- The model's dividend, a word of twice the width, is the signed high half over the unsigned low one. -/
theorem DivideView.dividend_eq : Machine.dividend b.w s.regs = b.dividend s := by
  rw [Machine.dividend, DivideView.dividend]
  split
  · rfl
  · have hpos : (b.w == 0) = false := by rw [beq_eq_false_iff_ne]; omega
    rw [BitVec.toInt_append, hpos, if_neg Bool.false_ne_true, mul_comm]

/-- After IDIV the quotient's and the remainder's registers hold them, and no other register bit has changed. -/
theorem DivideView.regs_written {t : State} (ht : t.regs = b.regs s) :
    b.quotientPlace.read b.w t = BitVec.ofInt b.w (b.quotient s) ∧
      b.remainderPlace.read b.w t = BitVec.ofInt b.w (b.remainder s) ∧
      ∀ q j, ¬ b.quotientPlace.coversBit b.w q j → ¬ b.remainderPlace.coversBit b.w q j →
        (t.regs.get q).getLsbD j = (s.regs.get q).getLsbD j := by
  by_cases h8 : b.w = 8
  · obtain ⟨w, src⟩ := b
    obtain rfl : w = 8 := h8
    simp only [DivideView.quotientPlace, DivideView.remainderPlace, Place.read, ht]
    refine ⟨?_, ?_, fun q j hal hah => ?_⟩
    · exact (congrArg (BitVec.setWidth 8) ((Regs.get8_al_set8_ah _ _).trans (Regs.get8_set8_self _ _ _))).trans
        (BitVec.setWidth_eq _)
    · exact (congrArg (BitVec.setWidth 8) (Regs.get8_set8_self _ _ _)).trans (BitVec.setWidth_eq _)
    · exact (Regs.getLsbD_set8_of_not_coversBit _ .ah _ hah).trans (Regs.getLsbD_set8_of_not_coversBit _ .al _ hal)
  · have hle : b.w ≤ 32 := by omega
    have hregs : b.regs s =
        (s.regs.setW .eax (BitVec.ofInt b.w (b.quotient s))).setW .edx (BitVec.ofInt b.w (b.remainder s)) := by
      rw [DivideView.regs, putQuotient, if_neg h8, DivideView.remainder]
    rw [DivideView.quotientPlace, DivideView.remainderPlace, if_neg h8, if_neg h8]
    simp only [Place.read, ht, hregs]
    refine ⟨?_, Regs.getW_setW_self _ hle _ _, fun q j ha hd => ?_⟩
    · exact (Regs.getW_setW_other (r := .edx) (q := .eax) _ _ nofun).trans (Regs.getW_setW_self _ hle _ _)
    · exact (Regs.getLsbD_setW_of_not_coversBit _ hle .edx _ hd).trans
        (Regs.getLsbD_setW_of_not_coversBit _ hle .eax _ ha)

end

/-- A number that fits is read back signed. -/
theorem toInt_ofInt_of_fits {w : Nat} (hw : 0 < w) {n : Int} (h : fits w n) : (BitVec.ofInt w n).toInt = n := by
  obtain ⟨hlow, hhigh⟩ := h
  refine BitVec.toInt_ofInt_eq_self hw hlow (by omega)

/-- The remainder by a signed `w`-bit divisor that is not zero fits. -/
theorem fits_tmod {w : Nat} (n : Int) {d : BitVec w} (hd : d.toInt ≠ 0) : fits w (n.tmod d.toInt) := by
  have hbound : (n.tmod d.toInt).natAbs < d.toInt.natAbs := by
    rw [Int.natAbs_tmod]
    exact Nat.mod_lt _ (Int.natAbs_pos.mpr hd)
  have hlow := BitVec.le_toInt d
  have hhigh := BitVec.toInt_lt (x := d)
  unfold fits
  omega

/-- IDIV that does not fault leaves quotient and remainder. -/
theorem done_of_fits {i : Instr} {s : State} {b : DivideView} (hview : divideView i s = some b)
    (hdivisor : b.divisor s ≠ 0) (hfits : fits b.w ((b.dividend s).tdiv (b.divisor s))) :
    b.Done i s (State.finish { s with regs := b.regs s } (drawnFlags s) 7 i.length) := by
  have hw := width_of_divideView hview
  have hpos : 0 < b.w := by omega
  have hquotient : b.quotient s = (b.dividend s).tdiv (b.divisor s) := by
    rw [DivideView.quotient, DivideView.dividend_eq hw]
  have hremainder : b.remainder s = (b.dividend s).tmod (b.divisor s) := by
    rw [DivideView.remainder, hquotient, DivideView.dividend_eq hw, Int.tmod_def, mul_comm]
  obtain ⟨hq, hr, hframe⟩ := DivideView.regs_written hw (s := s)
    (t := State.finish { s with regs := b.regs s } (drawnFlags s) 7 i.length) rfl
  refine ⟨?_, ?_, hframe, ?_, rfl, rfl, rfl⟩
  · rw [hq, hquotient, toInt_ofInt_of_fits hpos hfits]
  · rw [hr, hremainder]
    exact toInt_ofInt_of_fits hpos (fits_tmod _ hdivisor)
  · exact drawnApart_undef (ks := [1, 2, 3, 4, 5, 6]) (by decide) (by simp)

/-- When IDIV faults, in the spec's words. -/
theorem DivideView.faults_iff {b : DivideView} (hw : b.w = 8 ∨ b.w = 16 ∨ b.w = 32) {s : State} :
    b.faults s ↔ b.divisor s = 0 ∨ ¬ fits b.w ((b.dividend s).tdiv (b.divisor s)) ∨
      (b.dividend s).tdiv (b.divisor s) = -2 ^ (b.w - 1) ∧ s.undef 0 = true := by
  rw [DivideView.faults, DivideView.quotient, DivideView.dividend_eq hw, fits]
  push_cast
  rw [not_and_or, not_le, not_le]

/-- Settles O48: the cases of `faults_iff`; where IDIV does not fault it leaves what `done_of_fits` says. -/
theorem divideResult : Obligations.DivideResult := by
  intro i s b hview
  have hw := width_of_divideView hview
  have hfaults := DivideView.faults_iff hw (s := s)
  obtain ⟨hfault, hnext⟩ := exec_of_divideView hview
  have fault_of : b.use.ready s → b.faults s → exec i s = .fault .divideError := fun hready h =>
    (hfault h).trans (Use.guard_of_ready hready _)
  have done_of : b.use.ready s → ¬ b.faults s → b.divisor s ≠ 0 → fits b.w ((b.dividend s).tdiv (b.divisor s)) →
      ∃ t, exec i s = .next t ∧ b.Done i s t := fun hready h hd hfits =>
    ⟨_, (hnext h).trans (Use.guard_of_ready hready _), done_of_fits hview hd hfits⟩
  refine ⟨fun hready hd hfits hne => ?done, fun hready hzero => ?zero, fun hready hd hno => ?range,
    fun hready hd hleast => ?least, ?memory⟩
  case done => exact done_of hready (by rw [hfaults]; tauto) hd hfits
  case zero => exact fault_of hready (hfaults.mpr (.inl hzero))
  case range => exact fault_of hready (hfaults.mpr (.inr (.inl hno)))
  case least =>
    by_cases h : b.faults s
    · exact .inl (fault_of hready h)
    · refine .inr (done_of hready h hd ?_)
      by_contra hno
      exact h (hfaults.mpr (.inr (.inl hno)))
  case memory =>
    obtain ⟨k, hk⟩ := exists_exec_eq_guard (useOf_of_divideView hview)
    exact memFaults_of_exec_eq_guard hk

end Sys2Proof.Claims
end

section
/-! PROOFS. The repeated one-bit steps of the rotates in closed form (45_rotate.md R202 to R205). A rotate moves every bit
one place round a ring: the operand itself for ROL and ROR, CF and operand for RCL and RCR. -/

namespace Sys2Proof.Machine

/-! ### Moving round a ring of `n` bits -/

/-- A left rotate by `r` takes bit `i` to place `i + r`, modulo the width. -/
theorem getLsbD_rotateLeft_add {n : Nat} (x : BitVec n) (r : Nat) {i : Nat} (hi : i < n) :
    (x.rotateLeft r).getLsbD ((i + r) % n) = x.getLsbD i := by
  have hr : r % n < n := Nat.mod_lt r (Nat.zero_lt_of_lt hi)
  rw [BitVec.getLsbD_rotateLeft, ← Nat.add_mod_mod]
  generalize r % n = r at hr
  by_cases hwrap : i + r < n
  · rw [Nat.mod_eq_of_lt hwrap, decide_eq_false (by omega), cond_false, decide_eq_true hwrap, Bool.true_and,
      Nat.add_sub_cancel]
  · have hmod : (i + r) % n = i + r - n := by
      rw [Nat.mod_eq_sub_mod (Nat.le_of_not_lt hwrap), Nat.mod_eq_of_lt (by omega)]
    rw [hmod, decide_eq_true (by omega), cond_true, show n - r + (i + r - n) = i by omega]

/-- A right rotate by `r` takes bit `i + r`, modulo the width, to place `i`. -/
theorem getLsbD_rotateRight_add {n : Nat} (x : BitVec n) (r : Nat) {i : Nat} (hi : i < n) :
    (x.rotateRight r).getLsbD i = x.getLsbD ((i + r) % n) := by
  have hr : r % n < n := Nat.mod_lt r (Nat.zero_lt_of_lt hi)
  rw [BitVec.getLsbD_rotateRight, ← Nat.add_mod_mod]
  generalize r % n = r at hr
  by_cases hwrap : i + r < n
  · rw [Nat.mod_eq_of_lt hwrap, decide_eq_true (by omega), cond_true, Nat.add_comm]
  · have hmod : (i + r) % n = i + r - n := by
      rw [Nat.mod_eq_sub_mod (Nat.le_of_not_lt hwrap), Nat.mod_eq_of_lt (by omega)]
    rw [hmod, decide_eq_false (by omega), cond_false, decide_eq_true hi, Bool.true_and,
      show i - (n - r) = i + r - n by omega]

/-- Every place of the ring is `c` places on from one. -/
theorem exists_add_mod_eq {n : Nat} (c : Nat) {j : Nat} (hj : j < n) : ∃ i, i < n ∧ (i + c) % n = j := by
  have hn := Nat.zero_lt_of_lt hj
  have hc := Nat.mod_lt c hn
  refine ⟨(j + (n - c % n)) % n, Nat.mod_lt _ hn, ?_⟩
  rw [Nat.mod_add_mod, ← Nat.add_mod_mod, show j + (n - c % n) + c % n = j + n by omega, Nat.add_mod_right,
    Nat.mod_eq_of_lt hj]

/-- A sequence of words, each with the bits of the one before one place further left, rotates the first one left. -/
theorem eq_rotateLeft_of_step {n : Nat} {z : Nat → BitVec n}
    (step : ∀ c k, k < n → (z (c + 1)).getLsbD ((k + 1) % n) = (z c).getLsbD k) (c : Nat) :
    z c = (z 0).rotateLeft c := by
  have moved : ∀ i, i < n → (z c).getLsbD ((i + c) % n) = (z 0).getLsbD i := by
    intro i hi
    induction c with
    | zero => rw [Nat.add_zero, Nat.mod_eq_of_lt hi]
    | succ c ih =>
      rw [← ih, ← step c _ (Nat.mod_lt _ (Nat.zero_lt_of_lt hi)), Nat.mod_add_mod, Nat.add_assoc]
  refine BitVec.eq_of_getLsbD_eq fun j hj => ?_
  obtain ⟨i, hi, rfl⟩ := exists_add_mod_eq c hj
  rw [moved i hi, getLsbD_rotateLeft_add _ c hi]

/-- A sequence of words, each with the bits of the one before one place further right, rotates the first one right. -/
theorem eq_rotateRight_of_step {n : Nat} {z : Nat → BitVec n}
    (step : ∀ c k, k < n → (z (c + 1)).getLsbD k = (z c).getLsbD ((k + 1) % n)) (c : Nat) :
    z c = (z 0).rotateRight c := by
  refine BitVec.eq_of_getLsbD_eq fun j hj => ?_
  rw [getLsbD_rotateRight_add _ c hj]
  induction c generalizing j with
  | zero => rw [Nat.add_zero, Nat.mod_eq_of_lt hj]
  | succ c ih =>
    rw [step c j hj, ih _ (Nat.mod_lt _ (Nat.zero_lt_of_lt hj)), Nat.mod_add_mod, Nat.add_assoc, Nat.add_comm 1]

/-- One place on from bit `k` of `n`, modulo `n`. -/
theorem succ_mod_eq {n k : Nat} (hk : k < n) : (k + 1) % n = if k + 1 = n then 0 else k + 1 := by
  split
  · next h => rw [h, Nat.mod_self]
  · next h => exact Nat.mod_eq_of_lt (by omega)

/-! ### The steps (R202 to R205) -/

/-- ROL moves every bit one place left, the top bit to bit 0 (R202). -/
theorem getLsbD_rolBit {w : Nat} (v : BitVec w) (f : Bool) {k : Nat} (hk : k < w) :
    (rolBit v f).1.getLsbD ((k + 1) % w) = v.getLsbD k := by
  rw [succ_mod_eq hk, rolBit]
  split
  · next htop => subst htop; simp [BitVec.msb_eq_getLsbD_last]
  · next hbelow =>
    have : k + 1 < w := by omega
    simp [this, hk]

/-- ROR moves every bit one place right, bit 0 to the top (R203). -/
theorem getLsbD_rorBit {w : Nat} (v : BitVec w) (f : Bool) {k : Nat} (hk : k < w) :
    (rorBit v f).1.getLsbD k = v.getLsbD ((k + 1) % w) := by
  rw [succ_mod_eq hk, rorBit]
  split
  · next htop => subst htop; simp
  · next hbelow =>
    have : k < w - 1 := by omega
    simp [hk, this, Nat.add_comm]

/-- RCL moves every bit of CF over the operand one place left, CF to bit 0 (R204). -/
theorem getLsbD_rclBit {w : Nat} (hw : 0 < w) (v : BitVec w) (f : Bool) {k : Nat} (hk : k < 1 + w) :
    (BitVec.ofBool (rclBit v f).2 ++ (rclBit v f).1).getLsbD ((k + 1) % (1 + w)) =
      (BitVec.ofBool f ++ v).getLsbD k := by
  rw [succ_mod_eq hk, rclBit, BitVec.getLsbD_append, BitVec.getLsbD_append]
  by_cases htop : k = w
  · subst htop; simp [hw, Nat.add_comm]
  · have hkw : k < w := by omega
    rw [if_neg (show ¬ k + 1 = 1 + w by omega), if_pos hkw]
    by_cases hlast : k + 1 < w
    · simp [hlast, hkw]
    · obtain rfl : w = k + 1 := by omega
      simp [BitVec.msb_eq_getLsbD_last]

/-- RCR moves every bit of the operand over CF one place right, CF to the top (R205). -/
theorem getLsbD_rcrBit {w : Nat} (hw : 0 < w) (v : BitVec w) (f : Bool) {k : Nat} (hk : k < w + 1) :
    ((rcrBit v f).1 ++ BitVec.ofBool (rcrBit v f).2).getLsbD k =
      (v ++ BitVec.ofBool f).getLsbD ((k + 1) % (w + 1)) := by
  rw [succ_mod_eq hk, rcrBit, BitVec.getLsbD_append, BitVec.getLsbD_append]
  by_cases hfirst : k = 0
  · subst hfirst; simp [hw.ne']
  · have hlow : ¬ k < 1 := by omega
    by_cases htop : k = w
    · subst htop; simp [hlow, hw, show 1 + (k - 1) = k by omega]
    · have hkw : k < w := by omega
      have hbelow : k - 1 < w - 1 := by omega
      rw [if_neg (show ¬ k + 1 = w + 1 by omega), if_neg hlow, if_neg (show ¬ k + 1 < 1 by omega)]
      simp [hbelow, show 1 + (k - 1) = k by omega]

/-! ### Repeated steps -/

/-- `c` places left one at a time are a rotate by `c`. -/
theorem repeatBit_rolBit_fst {w : Nat} (c : Nat) (v : BitVec w) (f : Bool) :
    (repeatBit rolBit c v f).1 = v.rotateLeft c := by
  refine eq_rotateLeft_of_step (z := fun c => (repeatBit rolBit c v f).1) (fun c k hk => ?_) c
  simp only [repeatBit_succ_last]
  exact getLsbD_rolBit _ _ hk

/-- `c` places right one at a time are a rotate by `c`. -/
theorem repeatBit_rorBit_fst {w : Nat} (c : Nat) (v : BitVec w) (f : Bool) :
    (repeatBit rorBit c v f).1 = v.rotateRight c := by
  refine eq_rotateRight_of_step (z := fun c => (repeatBit rorBit c v f).1) (fun c k hk => ?_) c
  simp only [repeatBit_succ_last]
  exact getLsbD_rorBit _ _ hk

/-- `c` places left through CF one at a time are a rotate by `c` of CF over the operand. -/
theorem repeatBit_rclBit {w : Nat} (hw : 0 < w) (c : Nat) (v : BitVec w) (f : Bool) :
    BitVec.ofBool (repeatBit rclBit c v f).2 ++ (repeatBit rclBit c v f).1 = (BitVec.ofBool f ++ v).rotateLeft c := by
  refine eq_rotateLeft_of_step
    (z := fun c => BitVec.ofBool (repeatBit rclBit c v f).2 ++ (repeatBit rclBit c v f).1) (fun c k hk => ?_) c
  simp only [repeatBit_succ_last]
  exact getLsbD_rclBit hw _ _ hk

/-- `c` places right through CF one at a time are a rotate by `c` of the operand over CF. -/
theorem repeatBit_rcrBit {w : Nat} (hw : 0 < w) (c : Nat) (v : BitVec w) (f : Bool) :
    (repeatBit rcrBit c v f).1 ++ BitVec.ofBool (repeatBit rcrBit c v f).2 =
      (v ++ BitVec.ofBool f).rotateRight c := by
  refine eq_rotateRight_of_step
    (z := fun c => (repeatBit rcrBit c v f).1 ++ BitVec.ofBool (repeatBit rcrBit c v f).2) (fun c k hk => ?_) c
  simp only [repeatBit_succ_last]
  exact getLsbD_rcrBit hw _ _ hk

/-- The bit that ROL moved last is the new bit 0 (R202). -/
theorem repeatBit_rolBit_snd {w c : Nat} (hw : 0 < w) (h0 : c ≠ 0) (v : BitVec w) (f : Bool) :
    (repeatBit rolBit c v f).2 = (repeatBit rolBit c v f).1.getLsbD 0 := by
  obtain ⟨k, rfl⟩ := Nat.exists_eq_succ_of_ne_zero h0
  have entered := getLsbD_rolBit (repeatBit rolBit k v f).1 (repeatBit rolBit k v f).2 (k := w - 1) (by omega)
  rw [Nat.sub_add_cancel hw, Nat.mod_self, ← BitVec.msb_eq_getLsbD_last] at entered
  rw [repeatBit_succ_last, entered, rolBit]

/-- The bit that ROR moved last is the new top bit (R203). -/
theorem repeatBit_rorBit_snd {w c : Nat} (hw : 0 < w) (h0 : c ≠ 0) (v : BitVec w) (f : Bool) :
    (repeatBit rorBit c v f).2 = (repeatBit rorBit c v f).1.msb := by
  obtain ⟨k, rfl⟩ := Nat.exists_eq_succ_of_ne_zero h0
  have entered := getLsbD_rorBit (repeatBit rorBit k v f).1 (repeatBit rorBit k v f).2 (k := w - 1) (by omega)
  rw [Nat.sub_add_cancel hw, Nat.mod_self] at entered
  rw [repeatBit_succ_last, BitVec.msb_eq_getLsbD_last, entered, rorBit]

/-- A rotate by a multiple of the width is a full turn. -/
theorem rotateLeft_of_mod_eq_zero {n c : Nat} (h : c % n = 0) (x : BitVec n) : x.rotateLeft c = x := by
  refine BitVec.eq_of_getLsbD_eq fun j hj => ?_
  rw [← getLsbD_rotateLeft_add x c hj, ← Nat.add_mod_mod, h, Nat.add_zero, Nat.mod_eq_of_lt hj]

theorem rotateRight_of_mod_eq_zero {n c : Nat} (h : c % n = 0) (x : BitVec n) : x.rotateRight c = x := by
  refine BitVec.eq_of_getLsbD_eq fun j hj => ?_
  rw [getLsbD_rotateRight_add x c hj, ← Nat.add_mod_mod, h, Nat.add_zero, Nat.mod_eq_of_lt hj]

/-- Words put together in the same widths are the same. -/
theorem append_injective {m n : Nat} {x x' : BitVec m} {y y' : BitVec n} (h : x ++ y = x' ++ y') : x = x' ∧ y = y' := by
  have low : y = y' := by simpa [BitVec.setWidth_append] using congrArg (BitVec.setWidth n) h
  subst low
  exact ⟨(BitVec.append_left_inj y).mp h, rfl⟩

theorem ofBool_injective {b b' : Bool} (h : BitVec.ofBool b = BitVec.ofBool b') : b = b' := by
  simpa using congrArg (BitVec.getLsbD · 0) h

end Sys2Proof.Machine
end

section
/-! PROOFS. ROL, ROR, RCL and RCR (45_rotate.md R200 to R207). -/

namespace Sys2Proof.Claims

open Sys2Proof.Machine

/-- Settles O44: a rotate of the ring by its whole width. -/
theorem carryRotateFullTurn : Obligations.CarryRotateFullTurn := by
  intro w v f hw
  have turn : (w + 1) % (1 + w) = 0 := by rw [Nat.add_comm 1 w, Nat.mod_self]
  obtain ⟨hf, hv⟩ := append_injective ((repeatBit_rclBit hw (w + 1) v f).trans (rotateLeft_of_mod_eq_zero turn _))
  obtain ⟨hv', hf'⟩ :=
    append_injective ((repeatBit_rcrBit hw (w + 1) v f).trans (rotateRight_of_mod_eq_zero (Nat.mod_self _) _))
  exact ⟨Prod.ext hv (ofBool_injective hf), Prod.ext hv' (ofBool_injective hf')⟩

/-- What every rotate by a count that is not zero does: it writes the word of its repeated step and gives CF and OF. -/
theorem rotate_after {i : Instr} {s : State} {b : CountView} (hview : countView i s = some b)
    (hop : b.op.isRotate = true) (hwf : Memory.wf s.mem = true) (hc : b.c ≠ 0) {t : State}
    (ht : t = b.after i.length s) :
    WritesOnly b.dst (b.moved s).1 s t ∧ t.flags.cf = (b.moved s).2 ∧
      (b.c = 1 → t.flags.of = ((b.dst.read b.w s).msb ^^ (b.moved s).1.msb)) ∧
      (b.c ≠ 1 → Drawn t.flags.of s t) ∧
      t.flags.sf = s.flags.sf ∧ t.flags.zf = s.flags.zf ∧ t.flags.af = s.flags.af ∧ t.flags.pf = s.flags.pf ∧
      Advances i s t := by
  rw [CountView.after, if_neg hc, CountView.flags, if_pos hop, if_pos hop] at ht
  subst ht
  have written := Place.writesOnly_write hwf b.dst (mem_widths_of_countView hview) (b.moved s).1
  refine ⟨written.finish _ _ _, rfl, fun h => if_pos h, fun h => ?_, rfl, rfl, rfl, rfl,
    advances_write_finish i s _ _ _ _⟩
  have drawn := drawn_undef_write_finish s b.dst (b.moved s).1
    (rotateFlags b.c (b.dst.read b.w s) (b.moved s).1 (b.moved s).2 s) (k := 0) (drawn := 1) Nat.one_pos i.length
  rwa [State.finish_flags, rotateFlags, signChange, if_neg h]

/-- A rotate or shift that may access its operand goes on; by a count of zero it changes EIP alone. -/
theorem exec_of_countView_ready {i : Instr} {s : State} {b : CountView} (hview : countView i s = some b)
    (hready : b.use.ready s) : exec i s = .next (b.after i.length s) ∧
      (b.c = 0 → b.after i.length s = { s with eip := s.eip + BitVec.ofNat 32 i.length }) :=
  ⟨(exec_of_countView_eq_guard hview).trans (Use.guard_of_ready hready _), fun hc => if_pos hc⟩

/-- Settles O42: the ring is the operand. -/
theorem rotateResult : Obligations.RotateResult := by
  intro i s b hview hop hwf
  refine ⟨fun hready hc => ?zero, fun hready hc => ?nonzero,
    memFaults_of_exec_eq_guard (exec_of_countView_eq_guard hview)⟩ <;>
    obtain ⟨hexec, hzero⟩ := exec_of_countView_ready hview hready
  case zero => rw [hexec, hzero hc]
  case nonzero =>
    have hw : 0 < b.w := Nat.zero_lt_of_lt (eight_le_of_mem_widths (mem_widths_of_countView hview))
    have isRotate : b.op.isRotate = true := by rcases hop with hop | hop <;> rw [hop] <;> rfl
    obtain ⟨written, hcf, hof, rest⟩ := rotate_after hview isRotate hwf hc rfl
    refine ⟨_, hexec, ⟨_, ?word, written, hcf.trans ?carry, hof⟩, rest⟩ <;> rw [CountView.moved] <;>
      rcases hop with hop | hop <;> rw [hop]
    case word.inl => rw [if_pos rfl, BitVec.rotateLeft_mod_eq_rotateLeft]; exact repeatBit_rolBit_fst _ _ _
    case word.inr => rw [if_neg nofun, BitVec.rotateRight_mod_eq_rotateRight]; exact repeatBit_rorBit_fst _ _ _
    case carry.inl => rw [if_pos rfl]; exact repeatBit_rolBit_snd hw hc _ _
    case carry.inr => rw [if_neg nofun]; exact repeatBit_rorBit_snd hw hc _ _

/-- Settles O43: the ring is CF and the operand, CF at the top for RCL and at the bottom for RCR. -/
theorem rotateThroughCarryResult : Obligations.RotateThroughCarryResult := by
  intro i s b hview hop hwf
  refine ⟨fun hready hc => ?zero, fun hready hc => ?nonzero,
    memFaults_of_exec_eq_guard (exec_of_countView_eq_guard hview)⟩ <;>
    obtain ⟨hexec, hzero⟩ := exec_of_countView_ready hview hready
  case zero => rw [hexec, hzero hc]
  case nonzero =>
    have hw : 0 < b.w := Nat.zero_lt_of_lt (eight_le_of_mem_widths (mem_widths_of_countView hview))
    have isRotate : b.op.isRotate = true := by rcases hop with hop | hop <;> rw [hop] <;> rfl
    obtain ⟨written, hcf, hof, rest⟩ := rotate_after hview isRotate hwf hc rfl
    refine ⟨_, hexec, ⟨_, fun hop => ?left, fun hop => ?right, written, hof⟩, rest⟩ <;>
      rw [hcf, CountView.moved, hop]
    case left =>
      rw [Nat.add_comm b.w 1, BitVec.rotateLeft_mod_eq_rotateLeft]
      exact repeatBit_rclBit hw _ _ _
    case right =>
      rw [BitVec.rotateRight_mod_eq_rotateRight]
      exact repeatBit_rcrBit hw _ _ _

end Sys2Proof.Claims
end
